-- ==== Sys2Proof/Word.lean ====
section
/-! DEFINITION. The words of the block: 32-bit words (R49, R65), bytes for a byte-serial bridge (R49), the two lanes of
a stereo value (R96) and the four of a kind of the comb bank (R44). -/

namespace Sys2Proof

/-- A port, operand, response or memory word: 32 bits (00_scope.md R10, 20_memory.md R49). -/
abbrev Word := BitVec 32

/-- A byte of a byte-serial bridge; the block itself never sees one (R49). -/
abbrev Byte := BitVec 8

/-- A stereo value: lane 0 is left, lane 1 is right (R96). -/
structure Lanes where
  l : Word
  r : Word
  deriving DecidableEq, Repr

/-- Four things of one kind, numbered 0 to 3: the comb bank's lengths, heads and memories (R8, R37, R44). -/
structure Quad (α : Type) where
  q0 : α
  q1 : α
  q2 : α
  q3 : α
  deriving DecidableEq, Repr

/-- The one numbered `c` of four. -/
def Quad.get {α : Type} (q : Quad α) : Fin 4 → α
  | 0 => q.q0
  | 1 => q.q1
  | 2 => q.q2
  | 3 => q.q3

end Sys2Proof
end

