-- ==== Sys2Proof/Config.lean ====
section
/-! DEFINITION. What is fixed when the block is constructed and never changes after (00_scope.md section 4, R6, R7, R8,
R31, R59). A configuration is a field of State, so a statement about every state holds for every configuration; the
machine at `State.reset` has `Cfg.here`, in which what the spec leaves OPEN is a constant without a body. -/

namespace Sys2Proof

/-- The construction constants (R31 indices 0 to 7, R59). DCAP is not stored: it is 2 × FS (R7). -/
structure Cfg where
  /-- FS, samples per second (R6). -/
  fs : Nat
  /-- COMB_LEN[0..3] (R8). -/
  combLen : Quad Nat
  /-- AP_LEN (R8). -/
  apLen : Nat
  /-- AP_GAIN, binary32 (R8). -/
  apGain : Word
  /-- RESP_DEPTH, words each response queue holds (R59). -/
  respDepth : Nat
  deriving DecidableEq, Repr

/-- DCAP = 2 × FS (R7). -/
def Cfg.dcap (c : Cfg) : Nat := 2 * c.fs

/-- The sample rate of the machine at reset, less one: OPEN in the spec (R6, D15), so a free value
(DESIGN CHOICE, log entry 1). -/
opaque Config.fsLessOne : Fin 4194304

/-- RESP_DEPTH of the machine at reset, less two: OPEN in the spec (R59, D27), so a free value
(DESIGN CHOICE, log entry 2). -/
opaque Config.respDepthLessTwo : Nat

/-- COMB_LEN = (1116, 1188, 1277, 1356) (R8). -/
def Config.combLen : Quad Nat := ⟨1116, 1188, 1277, 1356⟩

/-- AP_LEN = 556 (R8). -/
def Config.apLen : Nat := 556

/-- AP_GAIN = f32(0.7) (R8, R14). -/
def Config.apGain : Word := 0x3F333333#32

/-- The configuration with the spec's own lengths and gain, for a given sample rate and queue depth (R8). -/
def Cfg.standard (fs respDepth : Nat) : Cfg :=
  { fs := fs, combLen := Config.combLen, apLen := Config.apLen, apGain := Config.apGain, respDepth := respDepth }

/-- The configuration of the machine at reset: lengths and gain as the spec takes them, FS and RESP_DEPTH free. -/
def Cfg.here : Cfg := Cfg.standard (Config.fsLessOne.val + 1) (Config.respDepthLessTwo + 2)

end Sys2Proof
end

