-- ==== Sys2Proof/Syntax.lean ====
section
/-! DEFINITION. The commands of CMD-1 (30_encoding.md R68, spec/opcode_table.json): one constructor per row. A PWR
carries its operand word and an SMP its two, raw (R67). -/

namespace Sys2Proof

/-- The two command ports (R54). -/
inductive Port where
  | ctrl
  | smpl
  deriving DecidableEq, Repr

/-- The commands, one per legal header word (R68). -/
inductive Instr where
  /-- NOP (R79) -/
  | nop
  /-- PWR bitDepth, v (R81) -/
  | pwrBitDepth (v : Word)
  /-- PWR sampleRateDiv, v (R82) -/
  | pwrSampleRateDiv (v : Word)
  /-- PWR delayTime, v (R83) -/
  | pwrDelayTime (v : Word)
  /-- PWR delayFeedback, v (R84) -/
  | pwrDelayFeedback (v : Word)
  /-- PWR delayMix, v (R85) -/
  | pwrDelayMix (v : Word)
  /-- PWR reverbMix, v (R86) -/
  | pwrReverbMix (v : Word)
  /-- PWR reverbSize, v (R87) -/
  | pwrReverbSize (v : Word)
  /-- PRD bitDepth (R88) -/
  | prdBitDepth
  /-- PRD sampleRateDiv (R88) -/
  | prdSampleRateDiv
  /-- PRD delayTime (R88) -/
  | prdDelayTime
  /-- PRD delayFeedback (R88) -/
  | prdDelayFeedback
  /-- PRD delayMix (R88) -/
  | prdDelayMix
  /-- PRD reverbMix (R88) -/
  | prdReverbMix
  /-- PRD reverbSize (R88) -/
  | prdReverbSize
  /-- CFGRD FS (R89) -/
  | cfgrdFs
  /-- CFGRD DCAP (R89) -/
  | cfgrdDcap
  /-- CFGRD COMB_LEN0 (R89) -/
  | cfgrdCombLen0
  /-- CFGRD COMB_LEN1 (R89) -/
  | cfgrdCombLen1
  /-- CFGRD COMB_LEN2 (R89) -/
  | cfgrdCombLen2
  /-- CFGRD COMB_LEN3 (R89) -/
  | cfgrdCombLen3
  /-- CFGRD AP_LEN (R89) -/
  | cfgrdApLen
  /-- CFGRD AP_GAIN (R89) -/
  | cfgrdApGain
  /-- CFGRD STATUS (R89) -/
  | cfgrdStatus
  /-- SMP wl, wr: a sample step with B = 0 (R90) -/
  | smp (wl wr : Word)
  /-- SMP.B wl, wr: a sample step with B = 1, the first of a host block (R90) -/
  | smpB (wl wr : Word)
  deriving DecidableEq, Repr

end Sys2Proof
end

