-- ==== Sys2Proof/WellFormed.lean ====
section
/-! DEFINITION. Well-formedness. No operand value of a command is ever refused (R67), so what can be ill-formed is a
command on a port that does not accept it (R54, R68) and a configuration outside the ranges of R6, R8 and R59. -/

namespace Sys2Proof

/-- Port `p` accepts command `i` (R54, R68): NOP on both, SMP and SMP.B on SMPL, all others on CTRL. -/
def Instr.wellFormed (p : Port) (i : Instr) : Bool :=
  match i with
  | .nop => true
  | .smp _ _ | .smpB _ _ => decide (p = .smpl)
  | .pwrBitDepth _ | .pwrSampleRateDiv _ | .pwrDelayTime _ | .pwrDelayFeedback _ | .pwrDelayMix _
  | .pwrReverbMix _ | .pwrReverbSize _
  | .prdBitDepth | .prdSampleRateDiv | .prdDelayTime | .prdDelayFeedback | .prdDelayMix | .prdReverbMix
  | .prdReverbSize
  | .cfgrdFs | .cfgrdDcap | .cfgrdCombLen0 | .cfgrdCombLen1 | .cfgrdCombLen2 | .cfgrdCombLen3 | .cfgrdApLen
  | .cfgrdApGain | .cfgrdStatus => decide (p = .ctrl)

/-- A comb or allpass length is 1..65535 (R8, D19). -/
def lengthWf (n : Nat) : Bool := decide (1 ≤ n) && decide (n ≤ 65535)

/-- AP_GAIN is a finite binary32 in [0, 1) (R8, D19): a non-negative word below that of 1, or the word of -0, whose
value is 0. -/
def gainWf (g : Word) : Bool := decide (g.toNat < 0x3F800000) || decide (g = 0x80000000#32)

/-- The configuration is one the spec allows: FS in 1..2^22 (R6), lengths and gain (R8), RESP_DEPTH at least 2 (R59). -/
def Cfg.wf (c : Cfg) : Bool :=
  decide (1 ≤ c.fs) && decide (c.fs ≤ 4194304) &&
  lengthWf c.combLen.q0 && lengthWf c.combLen.q1 && lengthWf c.combLen.q2 && lengthWf c.combLen.q3 &&
  lengthWf c.apLen && gainWf c.apGain && decide (2 ≤ c.respDepth)

end Sys2Proof
end

