-- ==== Sys2Proof/Decode.lean ====
section
/-! DEFINITION. Decoding and encoding of commands (30_encoding.md R65 to R74), the byte order of a byte-serial bridge
(R49), and after them the encoder, written from the same tables. -/

namespace Sys2Proof

/-- `w[hi:lo]`: the field of a word from bit `hi` down to bit `lo`, as an unsigned integer (00_scope.md section 5). -/
def field (hi lo : Nat) (w : Word) : Nat := w.toNat / 2 ^ lo % 2 ^ (hi + 1 - lo)

/-- OP = h[31:24] (R66). -/
def opField (h : Word) : Nat := field 31 24 h

/-- RSV = h[23:4] (R66). -/
def rsvField (h : Word) : Nat := field 23 4 h

/-- IDX = h[3:0] (R66, R69). -/
def idxField (h : Word) : Nat := field 3 0 h

/-- The legality of header word `h` on port `p` (R73). -/
def legal (p : Port) (h : Word) : Bool :=
  decide (rsvField h = 0) &&
  ((decide (opField h = 0x00) && decide (idxField h = 0)) ||
   (decide (p = .ctrl) && decide (opField h = 0x01) && decide (idxField h ≤ 6)) ||
   (decide (p = .ctrl) && decide (opField h = 0x02) && decide (idxField h ≤ 6)) ||
   (decide (p = .ctrl) && decide (opField h = 0x03) && decide (idxField h ≤ 8)) ||
   (decide (p = .smpl) && decide (opField h = 0x10) && decide (field 3 1 h = 0)))

/-- How many operand words a command takes, from its OP field alone (R70, R71). The spec gives no number for a
reserved OP, whose header is illegal before it is asked; the 0 there is used by no command. -/
def nOperands (op : Nat) : Nat :=
  if op = 0x01 then 1 else if op = 0x10 then 2 else 0

/-- NOP: only IDX 0 (R68). -/
def nopCommand (idx : Nat) : Option Instr := if idx = 0 then some .nop else none

/-- The PRD command of a parameter index (R68, R69). -/
def prdCommand (idx : Nat) : Option Instr :=
  match idx with
  | 0 => some .prdBitDepth
  | 1 => some .prdSampleRateDiv
  | 2 => some .prdDelayTime
  | 3 => some .prdDelayFeedback
  | 4 => some .prdDelayMix
  | 5 => some .prdReverbMix
  | 6 => some .prdReverbSize
  | _ => none

/-- The CFGRD command of a configuration index (R68, R69). -/
def cfgrdCommand (idx : Nat) : Option Instr :=
  match idx with
  | 0 => some .cfgrdFs
  | 1 => some .cfgrdDcap
  | 2 => some .cfgrdCombLen0
  | 3 => some .cfgrdCombLen1
  | 4 => some .cfgrdCombLen2
  | 5 => some .cfgrdCombLen3
  | 6 => some .cfgrdApLen
  | 7 => some .cfgrdApGain
  | 8 => some .cfgrdStatus
  | _ => none

/-- The PWR command of a parameter index, with its operand word (R68, R69). -/
def pwrCommand (idx : Nat) (v : Word) : Option Instr :=
  match idx with
  | 0 => some (.pwrBitDepth v)
  | 1 => some (.pwrSampleRateDiv v)
  | 2 => some (.pwrDelayTime v)
  | 3 => some (.pwrDelayFeedback v)
  | 4 => some (.pwrDelayMix v)
  | 5 => some (.pwrReverbMix v)
  | 6 => some (.pwrReverbSize v)
  | _ => none

/-- The SMP commands: B = IDX[0] (R68, R69). -/
def smpCommand (idx : Nat) (wl wr : Word) : Option Instr :=
  match idx with
  | 0 => some (.smp wl wr)
  | 1 => some (.smpB wl wr)
  | _ => none

/-- The commands without operand words: NOP, PRD and CFGRD (R68, R69). -/
def commandOf0 (op idx : Nat) : Option Instr :=
  if op = 0x00 then nopCommand idx
  else if op = 0x02 then prdCommand idx
  else if op = 0x03 then cfgrdCommand idx
  else none

/-- The commands with one operand word: PWR (R68). -/
def commandOf1 (op idx : Nat) (v : Word) : Option Instr := if op = 0x01 then pwrCommand idx v else none

/-- The commands with two operand words: SMP (R68). -/
def commandOf2 (op idx : Nat) (wl wr : Word) : Option Instr := if op = 0x10 then smpCommand idx wl wr else none

/-- The command of a header word and all its operand words; `none` where the header names no command with that many
operand words (R68, R71). -/
def commandOf (h : Word) (ops : List Word) : Option Instr :=
  match ops with
  | [] => commandOf0 (opField h) (idxField h)
  | [v] => commandOf1 (opField h) (idxField h) v
  | [wl, wr] => commandOf2 (opField h) (idxField h) wl wr
  | _ => none

/-- Why a word stream starts with no command. -/
inductive Reject where
  /-- no word has arrived -/
  | noWord
  /-- the header word is illegal on its port (R74) -/
  | illegalHeader (p : Port) (h : Word)
  /-- operand words of the header's command have not arrived (R70: the parser waits) -/
  | incomplete (h : Word)
  deriving DecidableEq, Repr

/-- The command at the front of a port's word stream, with the words after it (R65, R70, R71). -/
def decode (p : Port) (ws : List Word) : Except Reject (Instr × List Word) :=
  match ws with
  | [] => .error .noWord
  | h :: rest =>
    if legal p h then
      let n := nOperands (opField h)
      if rest.length < n then .error (.incomplete h)
      else
        match commandOf h (rest.take n) with
        | some i => .ok (i, rest.drop n)
        | none => .error (.illegalHeader p h)
    else .error (.illegalHeader p h)

/-! ## The byte-serial bridge (R49, D24) -/

/-- The four bytes of a word, least significant first (R49). -/
def wordBytes (w : Word) : List Byte :=
  [BitVec.ofNat 8 w.toNat, BitVec.ofNat 8 (w.toNat / 2 ^ 8), BitVec.ofNat 8 (w.toNat / 2 ^ 16),
   BitVec.ofNat 8 (w.toNat / 2 ^ 24)]

/-- A word from four bytes, the first its least significant (R49). -/
def wordOfBytes (b0 b1 b2 b3 : Byte) : Word :=
  BitVec.ofNat 32 (b0.toNat + b1.toNat * 2 ^ 8 + b2.toNat * 2 ^ 16 + b3.toNat * 2 ^ 24)

/-- The whole words of a byte stream; one to three bytes at the end make no word (R49). -/
def wordsOfBytes : List Byte → List Word
  | b0 :: b1 :: b2 :: b3 :: rest => wordOfBytes b0 b1 b2 b3 :: wordsOfBytes rest
  | _ => []

/-- The command at the front of a bridged byte stream of port `p`, with the words after it (R49). -/
def decodeBytes (p : Port) (bs : List Byte) : Except Reject (Instr × List Word) := decode p (wordsOfBytes bs)

/-! ## The encoder -/

/-- The header word of a command (R68). -/
def header (i : Instr) : Word :=
  match i with
  | .nop => 0x00000000#32
  | .pwrBitDepth _ => 0x01000000#32
  | .pwrSampleRateDiv _ => 0x01000001#32
  | .pwrDelayTime _ => 0x01000002#32
  | .pwrDelayFeedback _ => 0x01000003#32
  | .pwrDelayMix _ => 0x01000004#32
  | .pwrReverbMix _ => 0x01000005#32
  | .pwrReverbSize _ => 0x01000006#32
  | .prdBitDepth => 0x02000000#32
  | .prdSampleRateDiv => 0x02000001#32
  | .prdDelayTime => 0x02000002#32
  | .prdDelayFeedback => 0x02000003#32
  | .prdDelayMix => 0x02000004#32
  | .prdReverbMix => 0x02000005#32
  | .prdReverbSize => 0x02000006#32
  | .cfgrdFs => 0x03000000#32
  | .cfgrdDcap => 0x03000001#32
  | .cfgrdCombLen0 => 0x03000002#32
  | .cfgrdCombLen1 => 0x03000003#32
  | .cfgrdCombLen2 => 0x03000004#32
  | .cfgrdCombLen3 => 0x03000005#32
  | .cfgrdApLen => 0x03000006#32
  | .cfgrdApGain => 0x03000007#32
  | .cfgrdStatus => 0x03000008#32
  | .smp _ _ => 0x10000000#32
  | .smpB _ _ => 0x10000001#32

/-- The operand words of a command, in the order they are sent (R67). -/
def operands (i : Instr) : List Word :=
  match i with
  | .pwrBitDepth v | .pwrSampleRateDiv v | .pwrDelayTime v | .pwrDelayFeedback v | .pwrDelayMix v
  | .pwrReverbMix v | .pwrReverbSize v => [v]
  | .smp wl wr | .smpB wl wr => [wl, wr]
  | .nop | .prdBitDepth | .prdSampleRateDiv | .prdDelayTime | .prdDelayFeedback | .prdDelayMix | .prdReverbMix
  | .prdReverbSize | .cfgrdFs | .cfgrdDcap | .cfgrdCombLen0 | .cfgrdCombLen1 | .cfgrdCombLen2 | .cfgrdCombLen3
  | .cfgrdApLen | .cfgrdApGain | .cfgrdStatus => []

/-- The words of a command: its header word, then its operand words (R65). -/
def encode (i : Instr) : List Word := header i :: operands i

/-- The bytes of a command on a byte-serial bridge (R49). -/
def encodeBytes (i : Instr) : List Byte := (encode i).flatMap wordBytes

/-- How many response words a command gives (R72). -/
def responses (i : Instr) : Nat :=
  match i with
  | .nop | .pwrBitDepth _ | .pwrSampleRateDiv _ | .pwrDelayTime _ | .pwrDelayFeedback _ | .pwrDelayMix _
  | .pwrReverbMix _ | .pwrReverbSize _ => 0
  | .prdBitDepth | .prdSampleRateDiv | .prdDelayTime | .prdDelayFeedback | .prdDelayMix | .prdReverbMix
  | .prdReverbSize | .cfgrdFs | .cfgrdDcap | .cfgrdCombLen0 | .cfgrdCombLen1 | .cfgrdCombLen2 | .cfgrdCombLen3
  | .cfgrdApLen | .cfgrdApGain | .cfgrdStatus => 1
  | .smp _ _ | .smpB _ _ => 2

/-! ## The opcode table's words -/

/-- The port on which a header word of the opcode table is sent (R68): SMPL for OP 0x10, else CTRL; NOP is legal on
both and stands on CTRL here (DESIGN CHOICE, log entry 13). -/
def tablePort (h : Word) : Port := if opField h = 0x10 then .smpl else .ctrl

/-- The bytes of the instruction whose lowest `nbits` bits are those of `w` and whose other bits, up to the longest
command's three words (R71), are zero. -/
def tableBytes (nbits w : Nat) : List Byte :=
  (List.range 12).map fun k => BitVec.ofNat 8 (w % 2 ^ nbits / 2 ^ (8 * k))

/-- What the decoder reads from a row of spec/opcode_table.json whose bits are `w`, laid out in bytes as the bridge
does and sent on the row's port. -/
def decodeTableWord (nbits w : Nat) : Option Instr :=
  match decodeBytes (tablePort (BitVec.ofNat 32 (w % 2 ^ nbits))) (tableBytes nbits w) with
  | .ok (i, _) => some i
  | .error _ => none

end Sys2Proof
end

