-- ==== Sys2Proof/Machine/Float.lean ====
section
/-! DEFINITION. IEEE 754 binary32 on words (00_scope.md R10 to R16): one exact integer per finite value, one rounding
function, and the operations over them. Every finite binary32 value is an integer multiple of 2^-149, its `units`; a
sum or product of two values is computed exactly in such units and rounded once. -/

namespace Sys2Proof.Machine

/-- The one NaN an operation returns (R12). -/
def qNaN : Word := 0x7FC00000#32

/-- +inf (R10). -/
def posInf : Word := 0x7F800000#32

/-- -inf (R10). -/
def negInf : Word := 0xFF800000#32

/-- +0 (R14). -/
def posZero : Word := 0x00000000#32

/-- -0 (R10). -/
def negZero : Word := 0x80000000#32

/-- f32(1) (R14). -/
def one32 : Word := 0x3F800000#32

/-- The sign `w[31]` (R10). -/
def signBit (w : Word) : Bool := decide (2 ^ 31 ≤ w.toNat)

/-- The word without its sign, `w[30:0]`. -/
def magBits (w : Word) : Nat := w.toNat % 2 ^ 31

/-- The biased exponent `w[30:23]` (R10). -/
def expField (w : Word) : Nat := magBits w / 2 ^ 23

/-- The trailing significand `w[22:0]` (R10). -/
def fracField (w : Word) : Nat := magBits w % 2 ^ 23

/-- Exponent 0xFF with a nonzero significand (R10). -/
def isNaN (w : Word) : Bool := decide (expField w = 255) && decide (fracField w ≠ 0)

/-- Exponent 0xFF with significand 0 (R10). -/
def isInf (w : Word) : Bool := decide (expField w = 255) && decide (fracField w = 0)

/-- Neither infinite nor NaN (R10). -/
def isFinite (w : Word) : Bool := decide (expField w ≠ 255)

/-- +0 or -0. -/
def isZero (w : Word) : Bool := decide (magBits w = 0)

/-- |value(w)| × 2^149 of a finite word: exponent 0 is zero or a subnormal (R10). The same formula gives an infinity
2^128 × 2^149, above every finite value. -/
def magUnits (w : Word) : Nat :=
  if expField w = 0 then fracField w else (2 ^ 23 + fracField w) * 2 ^ (expField w - 1)

/-- value(w) × 2^149, exactly. -/
def units (w : Word) : Int := if signBit w then -(magUnits w : Int) else (magUnits w : Int)

/-- The word with sign `neg` and the bits of `mag` below it. -/
def packWord (neg : Bool) (mag : Nat) : Word := BitVec.ofNat 32 (mag + if neg then 2 ^ 31 else 0)

/-- The integer nearest to n/d, ties to even (R11). -/
def nearestEven (n d : Nat) : Nat :=
  if 2 * (n % d) < d then n / d
  else if d < 2 * (n % d) then n / d + 1
  else n / d + n / d % 2

/-- The bits `w[30:0]` of the binary32 value nearest to (n/d) × 2^-149, ties to even, an infinity where the rounded
magnitude passes the largest finite value (R11). With s the binade's number, the significand is n / (d × 2^s) rounded,
and exponent and significand add up because a carry out of the significand is the next binade. -/
def roundMag (n d : Nat) : Nat :=
  let s := Nat.log2 (n / d) - 23
  min (s * 2 ^ 23 + nearestEven n (d * 2 ^ s)) 0x7F800000

/-- The opposite of a word: its sign bit turned. -/
def neg32 (a : Word) : Word := a ^^^ 0x80000000#32

/-- The sum of two finite operands: exact, then rounded; an exact zero is +0 but for (-0) + (-0) (R11). -/
def addFinite (a b : Word) : Word :=
  let u := units a + units b
  if u = 0 then (if signBit a && signBit b then negZero else posZero)
  else packWord (decide (u < 0)) (roundMag u.natAbs 1)

/-- add32 (R11, R12). -/
def add32 (a b : Word) : Word :=
  if isNaN a || isNaN b then qNaN
  else if isInf a then (if isInf b && (signBit a != signBit b) then qNaN else a)
  else if isInf b then b
  else addFinite a b

/-- sub32(a, b) is add32(a, -b) (R11). -/
def sub32 (a b : Word) : Word := add32 a (neg32 b)

/-- The product of two finite operands: exact, then rounded, with the exclusive-or of the signs (R11). -/
def mulFinite (a b : Word) : Word :=
  packWord (signBit a != signBit b) (roundMag (magUnits a * magUnits b) (2 ^ 149))

/-- mul32 (R11, R12). -/
def mul32 (a b : Word) : Word :=
  if isNaN a || isNaN b then qNaN
  else if isInf a || isInf b then
    (if isZero a || isZero b then qNaN else if signBit a != signBit b then negInf else posInf)
  else mulFinite a b

/-- toF32(n), the binary32 value of an integer, exact below 2^24 (R16). -/
def toF32 (n : Nat) : Word := packWord false (roundMag (n * 2 ^ 149) 1)

/-- f32(n/d), the binary32 nearest to a decimal written as a fraction, with its sign (R14). -/
def f32 (neg : Bool) (n d : Nat) : Word := packWord neg (roundMag (n * 2 ^ 149) d)

/-- The mathematical floor of a finite binary32 (R16). -/
def floorI (x : Word) : Int := units x / 2 ^ 149

/-- The mathematical ceiling of a finite binary32 (R16). -/
def ceilI (x : Word) : Int := -((-units x) / 2 ^ 149)

end Sys2Proof.Machine
end

