-- ==== Sys2Proof/Machine/Operands.lean ====
section
/-! DEFINITION. Operand forms: the clamps a PWR operand goes through (40_control.md R78, R81 to R87), the constants of
00_scope.md R14, the response forms (R69), and the integers made from parameters: the delay length (R111) and the comb
effective length (R123). -/

namespace Sys2Proof.Machine

/-- f32(0.01), delayTime lower bound (R14). -/
def delayTimeMin : Word := 0x3C23D70A#32
/-- f32(1.9), delayTime upper bound (R14). -/
def delayTimeMax : Word := 0x3FF33333#32
/-- f32(0.95), delayFeedback upper bound (R14). -/
def delayFeedbackMax : Word := 0x3F733333#32
/-- f32(0.1), reverbSize lower bound (R14). -/
def reverbSizeMin : Word := 0x3DCCCCCD#32
/-- f32(0.84), comb feedback factor (R14). -/
def combFactor : Word := 0x3F570A3D#32
/-- f32(0.25), comb average, and the reset value of delayTime (R14, R42). -/
def quarter32 : Word := 0x3E800000#32
/-- f32(0.5), stereo-to-mono factor, and the reset value of reverbSize (R14, R42). -/
def half32 : Word := 0x3F000000#32

/-- clampI: an unsigned integer to 1..16 (R78). -/
def clampI (u : Nat) : Nat := min (max u 1) 16

/-- clampF: NaN to the lower bound, values outside the bounds to the nearer one, -0 to +0 (R78). `units` orders all
values, the infinities among them. -/
def clampF (x lo hi : Word) : Word :=
  if isNaN x then lo
  else if units x < units lo then lo
  else if units hi < units x then hi
  else if x = negZero then posZero
  else x

/-- The value PWR bitDepth stores (R81). -/
def clampBitDepth (v : Word) : Nat := clampI v.toNat

/-- The value PWR sampleRateDiv stores (R82). -/
def clampSampleRateDiv (v : Word) : Nat := clampI v.toNat

/-- The value PWR delayTime stores (R83). -/
def clampDelayTime (v : Word) : Word := clampF v delayTimeMin delayTimeMax

/-- The value PWR delayFeedback stores (R84). -/
def clampDelayFeedback (v : Word) : Word := clampF v posZero delayFeedbackMax

/-- The value PWR delayMix stores (R85). -/
def clampDelayMix (v : Word) : Word := clampF v posZero one32

/-- The value PWR reverbMix stores (R86). -/
def clampReverbMix (v : Word) : Word := clampF v posZero one32

/-- The value PWR reverbSize stores (R87). -/
def clampReverbSize (v : Word) : Word := clampF v reverbSizeMin one32

/-- zext_32(n): an unsigned integer as a response word (R69). -/
def zext32 (n : Nat) : Word := BitVec.ofNat 32 n

/-- delayLength(t) = floorI(mul32(t, toF32(FS))) (R111). At the smallest delay time this is 0 for every FS up to 99, where
the bracket in R112 says up to 50; the model follows R111's formula (DEDUCED, log entry 25). -/
def delayLength (fs : Nat) (t : Word) : Nat := (floorI (mul32 t (toF32 fs))).toNat

/-- The effective length of a comb, ceilI(mul32(toF32(COMB_LEN), reverbSize)) (R123). -/
def combLength (len : Nat) (size : Word) : Nat := (ceilI (mul32 (toF32 len) size)).toNat

/-- The comb feedback coefficient, mul32(f32(0.84), reverbSize) (R122). -/
def combFeedback (size : Word) : Word := mul32 combFactor size

end Sys2Proof.Machine
end

