-- ==== Sys2Proof/Machine/State.lean ====
section
/-! DEFINITION. The state of the block and of the hosts on its ports (10_state.md R19 to R42, 20_memory.md R44, R58,
60_exceptions.md R151): plain data. What only sample steps and reset change is one record, `Stage` (R64, R95). -/

namespace Sys2Proof.Machine

/-- A buffer memory (R44): the elements that are not +0, as pairs of index and binary32 word, indices rising. An index
not listed holds +0, the value of every element at reset (R42, R47). The smallest unit a memory has is a 32-bit element;
no memory of the block is addressed by bytes (R43). -/
abbrev Memory := List (Nat × Word)

/-- Every listed index is above `lo`, indices rise, and no listed word is +0. -/
def Memory.wfFrom (lo : Nat) : Memory → Bool
  | [] => true
  | (i, w) :: rest => decide (lo ≤ i) && decide (w ≠ posZero) && Memory.wfFrom (i + 1) rest

/-- The canonical form: equal memories are equal lists. -/
def Memory.wf (m : Memory) : Bool := Memory.wfFrom 0 m

/-- The seven parameter registers (R21 to R28). -/
structure Params where
  bitDepth : Nat
  sampleRateDiv : Nat
  delayTime : Word
  delayFeedback : Word
  delayMix : Word
  reverbMix : Word
  reverbSize : Word
  deriving DecidableEq, Repr

/-- The stage registers (R33 to R38) and the memories (R44). -/
structure Stage where
  /-- S.D, the delay length latch (R33) -/
  latch : Nat
  /-- S.dHead (R34) -/
  dHead : Nat
  /-- S.ctr, the decimator counter (R35) -/
  ctr : Nat
  /-- S.heldL (R36) -/
  heldL : Word
  /-- S.heldR (R36) -/
  heldR : Word
  /-- S.cHead[0..3] (R37) -/
  cHead : Quad Nat
  /-- S.apHead (R38) -/
  apHead : Nat
  /-- DL (R44) -/
  dl : Memory
  /-- DR (R44) -/
  dr : Memory
  /-- COMB[0..3] (R44) -/
  comb : Quad Memory
  /-- AP (R44) -/
  ap : Memory
  deriving DecidableEq, Repr

/-- S.parse[p] (R39): waiting for a header word, or for the rest of the operand words of header `h`. -/
inductive Parse where
  | idle
  | collecting (h : Word) (ops : List Word)
  deriving DecidableEq, Repr

/-- The block's side of a port (R39, R58, R59). -/
structure PortState where
  /-- S.parse[p] (R39) -/
  parse : Parse
  /-- a complete command held back because its responses do not fit (R59; log entry 6) -/
  waiting : Option Instr
  /-- the response queue, its head first (R58) -/
  resp : List Word
  deriving DecidableEq, Repr

/-- The host's side of a port (R151, R152); no state of the block (log entry 5). -/
structure HostState where
  /-- words the host still has to send, in order -/
  toSend : List Word
  /-- response words the host has removed, oldest first -/
  received : List Word
  deriving DecidableEq, Repr

/-- One act of one agent (R151, R152, R155; log entry 5). -/
inductive Act where
  /-- the block turns to port `p`: it runs the port's waiting command, or takes the next word sent on it -/
  | serve (p : Port)
  /-- the host of port `p` removes the word at the head of its response queue -/
  | remove (p : Port)
  /-- the reset input is applied, and this many words sent on CTRL and on SMPL meanwhile are lost (S11) -/
  | reset (lostCtrl lostSmpl : Nat)
  deriving DecidableEq, Repr

/-- The state. -/
structure State where
  /-- the construction constants (R31 indices 0 to 7, R59) -/
  cfg : Cfg
  /-- the parameter registers (R21) -/
  params : Params
  /-- STATUS: bit 0 ILL_CTRL, bit 1 ILL_SMPL; the other bits of the word have no storage and read as 0 (R32) -/
  status : BitVec 2
  /-- what only sample steps and reset change (R95) -/
  stage : Stage
  /-- CTRL, the block's side -/
  ctrl : PortState
  /-- SMPL, the block's side -/
  smpl : PortState
  /-- the control host -/
  ctrlHost : HostState
  /-- the audio host -/
  smplHost : HostState
  /-- the acts still to happen, next first (model's own, log entry 5) -/
  sched : List Act
  /-- IllegalCommand events recorded on CTRL; no step clears it (R141; model's own, log entry 7) -/
  faultsCtrl : Nat
  /-- IllegalCommand events recorded on SMPL; no step clears it (R141; model's own, log entry 7) -/
  faultsSmpl : Nat
  deriving DecidableEq, Repr

/-- Why a step stops. Both reasons belong to states no run reaches (log entries 8 and 9). -/
inductive Fault where
  /-- Raised by SMP and SMP.B in a state whose head indices are not all inside their memories. The spec says there is
  no such state (R45). Safe: the model stops where the spec says nothing. -/
  | indexOutOfRange
  /-- Raised by serving a port whose parser state is `collecting h ops` for a header or operand list that R39 and R70
  do not allow. Safe: the model stops where the spec says nothing. -/
  | malformedParser
  deriving DecidableEq, Repr

/-- Why an instruction has no meaning. -/
inductive Refusal where
  /-- Raised by exec for an instruction without a meaning; every instruction of this model has one, so nothing raises
  it. Safe. -/
  | notModelled (mnemonic : String)
  deriving DecidableEq, Repr

/-- The parameter registers at reset (R30, R42). -/
def Params.reset : Params :=
  { bitDepth := 16, sampleRateDiv := 1, delayTime := quarter32, delayFeedback := posZero, delayMix := posZero,
    reverbMix := posZero, reverbSize := half32 }

/-- The stage registers and memories at reset; S.D is the latch of the reset delayTime (R42, R155). -/
def Stage.reset (c : Cfg) : Stage :=
  { latch := delayLength c.fs quarter32, dHead := 0, ctr := 0, heldL := posZero, heldR := posZero,
    cHead := ⟨0, 0, 0, 0⟩, apHead := 0, dl := [], dr := [], comb := ⟨[], [], [], []⟩, ap := [] }

/-- A port at reset: parser Idle, nothing waiting, queue empty (R42). -/
def PortState.reset : PortState := { parse := .idle, waiting := none, resp := [] }

/-- A host that has nothing to send and has removed nothing (DESIGN CHOICE, log entry 5). -/
def HostState.reset : HostState := { toSend := [], received := [] }

/-- The state after reset for a given configuration (R42, R155). -/
def State.resetWith (c : Cfg) : State :=
  { cfg := c, params := Params.reset, status := 0#2, stage := Stage.reset c, ctrl := PortState.reset,
    smpl := PortState.reset, ctrlHost := HostState.reset, smplHost := HostState.reset, sched := [],
    faultsCtrl := 0, faultsSmpl := 0 }

/-- The state after reset (R42, R155). -/
def State.reset : State := State.resetWith Cfg.here

/-- The block's side of port `p`. -/
def State.port (s : State) : Port → PortState
  | .ctrl => s.ctrl
  | .smpl => s.smpl

/-- The host's side of port `p`. -/
def State.host (s : State) : Port → HostState
  | .ctrl => s.ctrlHost
  | .smpl => s.smplHost

/-- How many IllegalCommand events are recorded on port `p` (R141). -/
def State.faults (s : State) : Port → Nat
  | .ctrl => s.faultsCtrl
  | .smpl => s.faultsSmpl

/-- The state with other parameter registers. -/
def State.setParams (s : State) (P : Params) : State := { s with params := P }

/-- The state with another STATUS. -/
def State.setStatus (s : State) (b : BitVec 2) : State := { s with status := b }

/-- The state with other stage registers and memories. -/
def State.setStage (s : State) (g : Stage) : State := { s with stage := g }

/-- The state with another block side of port `p`. -/
def State.setPort (s : State) (p : Port) (x : PortState) : State :=
  match p with
  | .ctrl => { s with ctrl := x }
  | .smpl => { s with smpl := x }

/-- The state with another host side of port `p`. -/
def State.setHost (s : State) (p : Port) (x : HostState) : State :=
  match p with
  | .ctrl => { s with ctrlHost := x }
  | .smpl => { s with smplHost := x }

/-- The state with another schedule. -/
def State.setSched (s : State) (l : List Act) : State := { s with sched := l }

/-- The state with another count of recorded IllegalCommand events on port `p`. -/
def State.setFaults (s : State) (p : Port) (n : Nat) : State :=
  match p with
  | .ctrl => { s with faultsCtrl := n }
  | .smpl => { s with faultsSmpl := n }

end Sys2Proof.Machine
end

