-- ==== Sys2Proof/Machine/Flags.lean ====
section
/-! DEFINITION. The flag-like state: the two sticky bits of STATUS (10_state.md R32, R40). There are no condition codes
and no arithmetic flags, and no command but CFGRD STATUS reads a bit (R40). -/

namespace Sys2Proof.Machine

/-- The STATUS bit of a port: bit 0 ILL_CTRL, bit 1 ILL_SMPL (R32, R139). -/
def illegalBit (p : Port) : BitVec 2 :=
  match p with
  | .ctrl => 1#2
  | .smpl => 2#2

/-- STATUS with the port's bit set; the other bit is kept (R32, R140). -/
def setIllegalBit (p : Port) (s : State) : State := s.setStatus (s.status ||| illegalBit p)

/-- The STATUS word: bits 31:2 read as 0 (R32). -/
def statusWord (s : State) : Word := s.status.setWidth 32

end Sys2Proof.Machine
end

