-- ==== Sys2Proof/Machine/Ops.lean ====
section
/-! DEFINITION. The named operations over memories, responses and registers: MemRead and MemWrite (20_memory.md R47),
respond (R58), the configuration words (10_state.md R31), the IllegalCommand event, which is the block's one exception
and is taken here (60_exceptions.md R140; there is no return from it, R145), and reset (R155). -/

namespace Sys2Proof.Machine

/-- MemRead(M, i): the word last written at element i, or +0 (R47). -/
def memRead : Memory → Nat → Word
  | [], _ => posZero
  | (j, w) :: rest, i => if j = i then w else memRead rest i

/-- One cell, listed only if it is not +0. -/
def memCell (i : Nat) (v : Word) (rest : Memory) : Memory := if v = posZero then rest else (i, v) :: rest

/-- MemWrite(M, i, v), keeping the canonical form: indices rising, no +0 listed (R47). -/
def memWrite : Memory → Nat → Word → Memory
  | [], i, v => memCell i v []
  | (j, w) :: rest, i, v =>
    if i < j then memCell i v ((j, w) :: rest)
    else if i = j then memCell i v rest
    else (j, w) :: memWrite rest i v

/-- respond(p, w): append a word at the tail of the port's response queue (R58). -/
def respond (p : Port) (w : Word) (s : State) : State :=
  s.setPort p { s.port p with resp := (s.port p).resp ++ [w] }

/-- CFG[0..8], the words CFGRD reads (R31, R89). -/
def cfgFs (s : State) : Word := zext32 s.cfg.fs
def cfgDcap (s : State) : Word := zext32 s.cfg.dcap
def cfgCombLen (c : Fin 4) (s : State) : Word := zext32 (s.cfg.combLen.get c)
def cfgApLen (s : State) : Word := zext32 s.cfg.apLen
def cfgApGain (s : State) : Word := s.cfg.apGain

/-- IllegalCommand(p, h): the port's STATUS bit is set; the header word is dropped, the parser stays Idle, nothing is
responded and nothing else changes (R140). The model also records the event (R141; log entry 7). -/
def raiseIllegal (p : Port) (s : State) : State :=
  (setIllegalBit p s).setFaults p (s.faults p + 1)

/-- Applying reset (R155): every piece of the block's state takes its reset value, the construction constants stay, and
with them the host's sides of the ports, where `lostCtrl` and `lostSmpl` words sent meanwhile are lost (S11). -/
def applyReset (lostCtrl lostSmpl : Nat) (s : State) : State :=
  { State.resetWith s.cfg with
    ctrlHost := { s.ctrlHost with toSend := s.ctrlHost.toSend.drop lostCtrl }
    smplHost := { s.smplHost with toSend := s.smplHost.toSend.drop lostSmpl }
    sched := s.sched
    faultsCtrl := s.faultsCtrl
    faultsSmpl := s.faultsSmpl }

end Sys2Proof.Machine
end

