-- ==== Sys2Proof/Machine/Control.lean ====
section
/-! DEFINITION. The control commands: NOP, PWR, PRD, CFGRD (40_control.md R79 to R89). None writes a flag or raises
anything. -/

namespace Sys2Proof.Machine

/-- A control command ends in a next state: nothing in it can stop (R138). -/
abbrev Result := Host.Outcome State Fault Refusal

/-- NOP does nothing, on either port (R79). -/
def execNop (s : State) : Result := .next s

/-- PWR: one parameter register written, nothing else changed (R80). -/
def writeParams (P : Params) (s : State) : Result := .next (s.setParams P)

/-- PWR bitDepth (R81). -/
def execPwrBitDepth (v : Word) (s : State) : Result := writeParams { s.params with bitDepth := clampBitDepth v } s

/-- PWR sampleRateDiv; S.ctr is not touched (R82). -/
def execPwrSampleRateDiv (v : Word) (s : State) : Result :=
  writeParams { s.params with sampleRateDiv := clampSampleRateDiv v } s

/-- PWR delayTime; S.D is not touched (R83). -/
def execPwrDelayTime (v : Word) (s : State) : Result := writeParams { s.params with delayTime := clampDelayTime v } s

/-- PWR delayFeedback (R84). -/
def execPwrDelayFeedback (v : Word) (s : State) : Result :=
  writeParams { s.params with delayFeedback := clampDelayFeedback v } s

/-- PWR delayMix (R85). -/
def execPwrDelayMix (v : Word) (s : State) : Result := writeParams { s.params with delayMix := clampDelayMix v } s

/-- PWR reverbMix (R86). -/
def execPwrReverbMix (v : Word) (s : State) : Result := writeParams { s.params with reverbMix := clampReverbMix v } s

/-- PWR reverbSize; the comb memories and heads are not touched (R87). -/
def execPwrReverbSize (v : Word) (s : State) : Result :=
  writeParams { s.params with reverbSize := clampReverbSize v } s

/-- PRD and CFGRD: one response word on CTRL, nothing else changed (R88, R89). -/
def answer (w : Word) (s : State) : Result := .next (respond .ctrl w s)

/-- PRD bitDepth: zext_32 of the stored value (R88). -/
def execPrdBitDepth (s : State) : Result := answer (zext32 s.params.bitDepth) s

/-- PRD sampleRateDiv: zext_32 of the stored value (R88). -/
def execPrdSampleRateDiv (s : State) : Result := answer (zext32 s.params.sampleRateDiv) s

/-- PRD delayTime: the bits of the stored value (R88). -/
def execPrdDelayTime (s : State) : Result := answer s.params.delayTime s

/-- PRD delayFeedback (R88). -/
def execPrdDelayFeedback (s : State) : Result := answer s.params.delayFeedback s

/-- PRD delayMix (R88). -/
def execPrdDelayMix (s : State) : Result := answer s.params.delayMix s

/-- PRD reverbMix (R88). -/
def execPrdReverbMix (s : State) : Result := answer s.params.reverbMix s

/-- PRD reverbSize (R88). -/
def execPrdReverbSize (s : State) : Result := answer s.params.reverbSize s

/-- CFGRD FS (R89, R31 index 0). -/
def execCfgrdFs (s : State) : Result := answer (cfgFs s) s

/-- CFGRD DCAP (R89, R31 index 1). -/
def execCfgrdDcap (s : State) : Result := answer (cfgDcap s) s

/-- CFGRD COMB_LEN0 (R89, R31 index 2). -/
def execCfgrdCombLen0 (s : State) : Result := answer (cfgCombLen 0 s) s

/-- CFGRD COMB_LEN1 (R89, R31 index 3). -/
def execCfgrdCombLen1 (s : State) : Result := answer (cfgCombLen 1 s) s

/-- CFGRD COMB_LEN2 (R89, R31 index 4). -/
def execCfgrdCombLen2 (s : State) : Result := answer (cfgCombLen 2 s) s

/-- CFGRD COMB_LEN3 (R89, R31 index 5). -/
def execCfgrdCombLen3 (s : State) : Result := answer (cfgCombLen 3 s) s

/-- CFGRD AP_LEN (R89, R31 index 6). -/
def execCfgrdApLen (s : State) : Result := answer (cfgApLen s) s

/-- CFGRD AP_GAIN (R89, R31 index 7). -/
def execCfgrdApGain (s : State) : Result := answer (cfgApGain s) s

/-- CFGRD STATUS; reading does not clear it (R89, R32). -/
def execCfgrdStatus (s : State) : Result := answer (statusWord s) s

end Sys2Proof.Machine
end

