-- ==== Sys2Proof/Machine/Tanh.lean ====
section
/-! DEFINITION. tanhRN, the correctly rounded binary32 hyperbolic tangent (00_scope.md R17, 46_limiter.md R133 to R136).
With z = 2|x| and E = e^z, tanh |x| = (E - 1)/(E + 1), increasing in E. E is enclosed between two exact fractions: the
exponential series cut after z^128/128!, with its tail taken as 1 (too small) or as 2 (too large). -/

namespace Sys2Proof.Machine

/-- The words from here up have tanhRN = 1 (R134). -/
def tanhSaturation : Nat := 0x41102CB4

/-- How many terms of the exponential series are summed (DEDUCED, log entry 10). -/
def expTerms : Nat := 128

/-- Horner's scheme for the exponential series of z = a/b, from term k down: with T(k) = 1 + (z/k) T(k+1), takes the
fraction n/d for T(k+1) and gives T(1) as a fraction. -/
def expHorner (a b : Nat) : Nat → Nat → Nat → Nat × Nat
  | 0, n, d => (n, d)
  | k + 1, n, d => expHorner a b k ((k + 1) * b * d + a * n) ((k + 1) * b * d)

/-- A bound of e^(2|x|) as a fraction, from a bound of the series' tail: 1 gives a lower bound, 2 an upper one while
2|x| is at most 64. 2|x| is magUnits x / 2^148. -/
def expBound (tail : Nat) (x : Word) : Nat × Nat := expHorner (magUnits x) (2 ^ 148) expTerms tail 1

/-- The bits `w[30:0]` of (E - 1)/(E + 1) rounded to binary32, for the bound of E that goes with `tail`. -/
def tanhMag (tail : Nat) (x : Word) : Nat :=
  match expBound tail x with
  | (n, d) => roundMag ((n - d) * 2 ^ 149) (n + d)

/-- The two bounds of tanh |x| round to one word, which is then the correctly rounded one (log entry 10). -/
def tanhResolved (x : Word) : Bool := decide (tanhMag 1 x = tanhMag 2 x)

/-- tanhRN (R17, R134, R135): NaN gives the one NaN, the sign is that of x, the magnitude is 1 from the saturation
word up (infinities included) and the rounded bound below it. -/
def tanhRN (x : Word) : Word :=
  if isNaN x then qNaN
  else if tanhSaturation ≤ magBits x then packWord (signBit x) 0x3F800000
  else packWord (signBit x) (tanhMag 1 x)

end Sys2Proof.Machine
end

