-- ==== Sys2Proof/Machine/Stages.lean ====
section
/-! DEFINITION. The five stages of a sample step (42_bitcrusher.md to 46_limiter.md). Each is a function of its input
lanes, the parameters read at the start of the step (R91) and the stage registers and memories. -/

namespace Sys2Proof.Machine

/-! ## Stage 1, quantizer -/

/-- Q(x, b) (R99 to R101): b = 16 and non-finite x pass; else x is rounded to a multiple of 2^-(b-1), ties toward
+infinity, a zero taking the sign of x. In units of 2^-149 the multiple n × 2^-k is n × 2^(149-k), exactly (R102). -/
def quantize (x : Word) (b : Nat) : Word :=
  if b = 16 then x
  else if isNaN x || isInf x then x
  else
    let k := b - 1
    let n : Int := (2 * (units x * 2 ^ k) + 2 ^ 149) / 2 ^ 150
    if n = 0 then (if signBit x then negZero else posZero)
    else packWord (decide (n < 0)) (roundMag (n.natAbs * 2 ^ 149) (2 ^ k))

/-- Stage 1 on both lanes (R98). -/
def quantizeStage (P : Params) (x : Lanes) : Lanes := ⟨quantize x.l P.bitDepth, quantize x.r P.bitDepth⟩

/-! ## Stage 2, decimator -/

/-- Capture both lanes when the counter is 0, output the held lanes, advance the counter (R106). -/
def decimate (P : Params) (c : Lanes) (g : Stage) : Lanes × Stage :=
  let held : Lanes := if g.ctr = 0 then c else ⟨g.heldL, g.heldR⟩
  (held, { g with heldL := held.l, heldR := held.r, ctr := (g.ctr + 1) % P.sampleRateDiv })

/-! ## Stage 3, delay -/

/-- The delay length latch, recomputed at a block start (R111). -/
def latchDelay (c : Cfg) (P : Params) (B : Bool) (g : Stage) : Stage :=
  if B then { g with latch := delayLength c.fs P.delayTime } else g

/-- (S.dHead - S.D + DCAP) mod DCAP (R113), with floor modulo (00_scope.md section 5). -/
def readIndex (c : Cfg) (g : Stage) : Nat := (((g.dHead : Int) - (g.latch : Int) + (c.dcap : Int)) % (c.dcap : Int)).toNat

/-- input + delayed × delayFeedback, product rounded, then sum (R114). -/
def delayWrite (P : Params) (x d : Word) : Word := add32 x (mul32 d P.delayFeedback)

/-- input × (1 - delayMix) + delayed × delayMix: complement, two products, sum (R116). -/
def delayMixed (P : Params) (x d : Word) : Word :=
  add32 (mul32 x (sub32 one32 P.delayMix)) (mul32 d P.delayMix)

/-- Read both lanes, write both at the head, advance the head, mix (R113 to R116). -/
def delayStage (c : Cfg) (P : Params) (x : Lanes) (g : Stage) : Lanes × Stage :=
  let r := readIndex c g
  let d : Lanes := ⟨memRead g.dl r, memRead g.dr r⟩
  (⟨delayMixed P x.l d.l, delayMixed P x.r d.r⟩,
   { g with
     dl := memWrite g.dl g.dHead (delayWrite P x.l d.l)
     dr := memWrite g.dr g.dHead (delayWrite P x.r d.r)
     dHead := (g.dHead + 1) % c.dcap })

/-! ## Stage 4, reverb -/

/-- The network input, the mono average of the two lanes (R121). -/
def monoInput (w : Lanes) : Word := mul32 half32 (add32 w.l w.r)

/-- One comb's memory after a step: input + read × combFeedback written at its head (R124). -/
def combWrite (m cf : Word) (mem : Memory) (head : Nat) : Memory :=
  memWrite mem head (add32 m (mul32 (memRead mem head) cf))

/-- One comb's head after a step, modulo the effective length of this step (R123, R124, R126). -/
def combAdvance (len : Nat) (size : Word) (head : Nat) : Nat := (head + 1) % combLength len size

/-- The values the four combs read at their heads (R124). -/
def combReads (g : Stage) : Quad Word :=
  ⟨memRead g.comb.q0 g.cHead.q0, memRead g.comb.q1 g.cHead.q1, memRead g.comb.q2 g.cHead.q2,
   memRead g.comb.q3 g.cHead.q3⟩

/-- The four combs of one step; they share no state (R124). -/
def combStage (c : Cfg) (P : Params) (m : Word) (g : Stage) : Stage :=
  let cf := combFeedback P.reverbSize
  { g with
    comb := ⟨combWrite m cf g.comb.q0 g.cHead.q0, combWrite m cf g.comb.q1 g.cHead.q1,
             combWrite m cf g.comb.q2 g.cHead.q2, combWrite m cf g.comb.q3 g.cHead.q3⟩
    cHead := ⟨combAdvance c.combLen.q0 P.reverbSize g.cHead.q0, combAdvance c.combLen.q1 P.reverbSize g.cHead.q1,
              combAdvance c.combLen.q2 P.reverbSize g.cHead.q2, combAdvance c.combLen.q3 P.reverbSize g.cHead.q3⟩ }

/-- The pre-diffusion signal: the four reads added left to right, scaled by 0.25 (R125). -/
def combSum (v : Quad Word) : Word := mul32 (add32 (add32 (add32 v.q0 v.q1) v.q2) v.q3) quarter32

/-- The allpass's new element: input + read × gain (R127). -/
def allpassWrite (c : Cfg) (pre a : Word) : Word := add32 pre (mul32 a c.apGain)

/-- The allpass's output: read - gain × new element (R127). -/
def allpassOut (c : Cfg) (pre a : Word) : Word := sub32 a (mul32 c.apGain (allpassWrite c pre a))

/-- The allpass diffuser (R127, R128). -/
def allpassStage (c : Cfg) (pre : Word) (g : Stage) : Word × Stage :=
  let a := memRead g.ap g.apHead
  (allpassOut c pre a,
   { g with ap := memWrite g.ap g.apHead (allpassWrite c pre a), apHead := (g.apHead + 1) % c.apLen })

/-- The final mix of one lane (R129). -/
def reverbMixed (P : Params) (w dif : Word) : Word := add32 w (mul32 dif P.reverbMix)

/-- Mono input, combs, sum, allpass, final mix (R121 to R129). -/
def reverbStage (c : Cfg) (P : Params) (w : Lanes) (g : Stage) : Lanes × Stage :=
  let pre := combSum (combReads g)
  let (dif, g') := allpassStage c pre (combStage c P (monoInput w) g)
  (⟨reverbMixed P w.l dif, reverbMixed P w.r dif⟩, g')

/-! ## Stage 5, limiter -/

/-- tanhRN on both lanes (R133). -/
def limitStage (y : Lanes) : Lanes := ⟨tanhRN y.l, tanhRN y.r⟩

/-! ## The cascade -/

/-- The limiter's input: stages 1 to 4 in their fixed order (R90, R92), with the latch before them if B = 1. -/
def cascade (c : Cfg) (P : Params) (B : Bool) (x : Lanes) (g : Stage) : Lanes × Stage :=
  let g0 := latchDelay c P B g
  let (s, g2) := decimate P (quantizeStage P x) g0
  let (w, g3) := delayStage c P s g2
  reverbStage c P w g3

/-- A sample step on the stages: the output lanes and the new stage state (R90). -/
def sampleStep (c : Cfg) (P : Params) (B : Bool) (x : Lanes) (g : Stage) : Lanes × Stage :=
  let (y, g') := cascade c P B x g
  (limitStage y, g')

end Sys2Proof.Machine
end

