-- ==== Sys2Proof/Machine/Sample.lean ====
section
/-! DEFINITION. SMP and SMP.B (41_sample.md R90). -/

namespace Sys2Proof.Machine

/-- Every index a sample step uses is inside its memory (R45); the delay's read index is so by its modulo. -/
def indicesInRange (c : Cfg) (g : Stage) : Bool :=
  decide (g.dHead < c.dcap) &&
  decide (g.cHead.q0 < c.combLen.q0) && decide (g.cHead.q1 < c.combLen.q1) &&
  decide (g.cHead.q2 < c.combLen.q2) && decide (g.cHead.q3 < c.combLen.q3) &&
  decide (g.apHead < c.apLen)

/-- One sample step and its two responses, left then right (R90). It reads the parameters once, at its start (R91).
The guard holds in every state a run reaches (R45; log entry 8). -/
def sample (B : Bool) (wl wr : Word) (s : State) : Result :=
  if indicesInRange s.cfg s.stage then
    let (o, g) := sampleStep s.cfg s.params B ⟨wl, wr⟩ s.stage
    .next (respond .smpl o.r (respond .smpl o.l (s.setStage g)))
  else .fault .indexOutOfRange

/-- SMP: B = 0, the latch is kept (R90). -/
def execSmp (wl wr : Word) (s : State) : Result := sample false wl wr s

/-- SMP.B: B = 1, the latch is recomputed first (R90, R111). -/
def execSmpB (wl wr : Word) (s : State) : Result := sample true wl wr s

end Sys2Proof.Machine
end

