-- ==== Sys2Proof/Machine/Dispatch.lean ====
section
/-! DEFINITION. One arm per command (R68): exec runs a complete command, atomically (20_memory.md R55). -/

namespace Sys2Proof.Machine

def exec (i : Instr) (s : State) : Host.Outcome State Fault Refusal :=
  match i with
  | .nop => Sys2Proof.Machine.execNop s
  | .pwrBitDepth v => Sys2Proof.Machine.execPwrBitDepth v s
  | .pwrSampleRateDiv v => Sys2Proof.Machine.execPwrSampleRateDiv v s
  | .pwrDelayTime v => Sys2Proof.Machine.execPwrDelayTime v s
  | .pwrDelayFeedback v => Sys2Proof.Machine.execPwrDelayFeedback v s
  | .pwrDelayMix v => Sys2Proof.Machine.execPwrDelayMix v s
  | .pwrReverbMix v => Sys2Proof.Machine.execPwrReverbMix v s
  | .pwrReverbSize v => Sys2Proof.Machine.execPwrReverbSize v s
  | .prdBitDepth => Sys2Proof.Machine.execPrdBitDepth s
  | .prdSampleRateDiv => Sys2Proof.Machine.execPrdSampleRateDiv s
  | .prdDelayTime => Sys2Proof.Machine.execPrdDelayTime s
  | .prdDelayFeedback => Sys2Proof.Machine.execPrdDelayFeedback s
  | .prdDelayMix => Sys2Proof.Machine.execPrdDelayMix s
  | .prdReverbMix => Sys2Proof.Machine.execPrdReverbMix s
  | .prdReverbSize => Sys2Proof.Machine.execPrdReverbSize s
  | .cfgrdFs => Sys2Proof.Machine.execCfgrdFs s
  | .cfgrdDcap => Sys2Proof.Machine.execCfgrdDcap s
  | .cfgrdCombLen0 => Sys2Proof.Machine.execCfgrdCombLen0 s
  | .cfgrdCombLen1 => Sys2Proof.Machine.execCfgrdCombLen1 s
  | .cfgrdCombLen2 => Sys2Proof.Machine.execCfgrdCombLen2 s
  | .cfgrdCombLen3 => Sys2Proof.Machine.execCfgrdCombLen3 s
  | .cfgrdApLen => Sys2Proof.Machine.execCfgrdApLen s
  | .cfgrdApGain => Sys2Proof.Machine.execCfgrdApGain s
  | .cfgrdStatus => Sys2Proof.Machine.execCfgrdStatus s
  | .smp wl wr => Sys2Proof.Machine.execSmp wl wr s
  | .smpB wl wr => Sys2Proof.Machine.execSmpB wl wr s

end Sys2Proof.Machine
end

