-- ==== Sys2Proof/Machine/Ports.lean ====
section
/-! DEFINITION. The ports: taking a word (30_encoding.md R70), running a complete command or holding it back
(20_memory.md R55, R59), and the acts of the agents (60_exceptions.md R151, R152). -/

namespace Sys2Proof.Machine

/-- A complete command may run on its port: its queue is not full (R164) and its responses fit in it (R59)
(log entry 6). -/
def fits (p : Port) (i : Instr) (s : State) : Bool :=
  decide ((s.port p).resp.length < s.cfg.respDepth) &&
  decide ((s.port p).resp.length + responses i ≤ s.cfg.respDepth)

/-- Set the parser of a port (R39). -/
def setParse (p : Port) (x : Parse) (s : State) : State := s.setPort p { s.port p with parse := x }

/-- Set the command a port holds back (R59). -/
def setWaiting (p : Port) (x : Option Instr) (s : State) : State := s.setPort p { s.port p with waiting := x }

/-- A complete command executes, or waits until its responses fit (R55, R59). -/
def runOrWait (p : Port) (i : Instr) (s : State) : Result :=
  if fits p i s then exec i s else .next (setWaiting p (some i) s)

/-- The parser takes word `w` on port `p` (R70). A header that passes `legal` names a command; the fault belongs to
parser states R39 does not allow (log entry 9). -/
def takeWord (p : Port) (w : Word) (s : State) : Result :=
  match (s.port p).parse with
  | .idle =>
    if legal p w then
      if nOperands (opField w) = 0 then
        match commandOf w [] with
        | some i => runOrWait p i s
        | none => .fault .malformedParser
      else .next (setParse p (.collecting w []) s)
    else .next (raiseIllegal p s)
  | .collecting h ops =>
    if legal p h && decide (ops.length + 1 ≤ nOperands (opField h)) then
      if ops.length + 1 = nOperands (opField h) then
        match commandOf h (ops ++ [w]) with
        | some i => runOrWait p i (setParse p .idle s)
        | none => .fault .malformedParser
      else .next (setParse p (.collecting h (ops ++ [w])) s)
    else .fault .malformedParser

/-- The block turns to port `p`. A waiting command runs if it now fits; while it waits the port accepts no word (R59).
Otherwise the next word the host has sent is taken; with none there is nothing to do (R150). -/
def serve (p : Port) (s : State) : Result :=
  match (s.port p).waiting with
  | some i => if fits p i s then exec i (setWaiting p none s) else .next s
  | none =>
    match (s.host p).toSend with
    | [] => .next s
    | w :: rest => takeWord p w (s.setHost p { s.host p with toSend := rest })

/-- The host of port `p` removes the word at the head of its queue, if there is one (R58, R152). -/
def remove (p : Port) (s : State) : State :=
  match (s.port p).resp with
  | [] => s
  | w :: rest =>
    (s.setPort p { s.port p with resp := rest }).setHost p { s.host p with received := (s.host p).received ++ [w] }

/-- A port with which nothing is left to do: parser Idle, no response to remove (R152), and no command held back (DEDUCED,
log entry 26). -/
def portOver (x : PortState) : Bool := decide (x.parse = .idle) && decide (x.resp = []) && decide (x.waiting = none)

/-- A run of the model is over: both parsers are Idle and both response queues are empty (R152). -/
def runOver (s : State) : Bool := portOver s.ctrl && portOver s.smpl

/-- One act of one agent (R151, R152, R155). -/
def act (a : Act) (s : State) : Result :=
  match a with
  | .serve p => serve p s
  | .remove p => .next (remove p s)
  | .reset lostCtrl lostSmpl => .next (applyReset lostCtrl lostSmpl s)

/-- The words of the instruction whose lowest `nbits` bits are those of `w`, its other bits zero: the header word and
as many operand words as its OP takes (R70, R71). -/
def tableWords (nbits w : Nat) : List Word :=
  let ws := wordsOfBytes (tableBytes nbits w)
  ws.take (1 + nOperands (opField (ws.headD 0#32)))

/-- A port that is about to take the last word of the instruction `ws`, the earlier ones already taken, with room for
its responses. -/
def portBefore (s : State) (p : Port) (ws : List Word) : PortState :=
  { parse := match ws with
      | h :: v :: rest => .collecting h ((v :: rest).dropLast)
      | _ => .idle
    waiting := none
    resp := if decide ((s.port p).resp.length + 2 ≤ s.cfg.respDepth) then (s.port p).resp else [] }

/-- The state in which the next step takes the last word of the instruction `ws` on port `p` (log entry 13). -/
def offer (p : Port) (ws : List Word) (s : State) : State :=
  ((s.setPort p (portBefore s p ws)).setHost p
    { s.host p with toSend := (ws.getLast?.toList ++ (s.host p).toSend) }).setSched (.serve p :: s.sched)

end Sys2Proof.Machine
end

