-- ==== Sys2Proof/Machine/Step.lean ====
section
/-! DEFINITION. One step: the next act of the schedule, or nothing where no act is scheduled (60_exceptions.md R150,
R151). -/

namespace Sys2Proof.Machine

/-- The next act of the schedule happens; with an empty schedule the block is idle and keeps all its state (R150). -/
def step (s : State) : Host.Outcome State Fault Refusal :=
  match s.sched with
  | [] => .next s
  | a :: rest => act a (s.setSched rest)

/-- The state in which the next step runs the instruction of the opcode table whose bits are `w` (log entry 13). -/
def State.withFetchWord (s : State) (nbits w : Nat) : State :=
  offer (tablePort (BitVec.ofNat 32 (w % 2 ^ nbits))) (tableWords nbits w) s

end Sys2Proof.Machine
end

