-- ==== Sys2Proof/Machine/Assembler.lean ====
section
/-! DEFINITION. The assembly syntax and the pseudo-commands (30_encoding.md R75, R76): from a line of text to a command,
and from a pseudo-command to the commands it stands for. Text is a list of characters. No part of the block; it is the
spec's own way to write command streams. -/

namespace Sys2Proof.Machine

/-- A blank between the words of a line. -/
def isBlank (c : Char) : Bool := decide (c = ' ') || decide (c = '\t')

/-- A text without the blanks around it. -/
def trim (cs : List Char) : List Char := ((cs.dropWhile isBlank).reverse.dropWhile isBlank).reverse

/-- The pieces of a text between the places where a character stands. -/
def pieces (sep : Char) : List Char → List (List Char)
  | [] => [[]]
  | c :: rest =>
    if c = sep then [] :: pieces sep rest
    else
      match pieces sep rest with
      | [] => [[c]]
      | p :: ps => (c :: p) :: ps

/-- A decimal digit's value. -/
def decDigit (c : Char) : Option Nat :=
  if '0'.toNat ≤ c.toNat ∧ c.toNat ≤ '9'.toNat then some (c.toNat - '0'.toNat) else none

/-- A hexadecimal digit's value. -/
def hexDigit (c : Char) : Option Nat :=
  if 'a'.toNat ≤ c.toNat ∧ c.toNat ≤ 'f'.toNat then some (c.toNat - 'a'.toNat + 10)
  else if 'A'.toNat ≤ c.toNat ∧ c.toNat ≤ 'F'.toNat then some (c.toNat - 'A'.toNat + 10)
  else decDigit c

/-- A run of digits read in a base, after the value `acc` of the digits before it. -/
def digits (digit : Char → Option Nat) (base : Nat) : List Char → Nat → Option Nat
  | [], acc => some acc
  | c :: rest, acc =>
    match digit c with
    | some d => digits digit base rest (acc * base + d)
    | none => none

/-- One or more decimal digits. -/
def decimal (cs : List Char) : Option Nat := if cs = [] then none else digits decDigit 10 cs 0

/-- `0x` and one to eight hexadecimal digits: the word itself (R75). -/
def hexWord (cs : List Char) : Option Word :=
  match cs with
  | '0' :: 'x' :: ds =>
    if 1 ≤ ds.length ∧ ds.length ≤ 8 then (digits hexDigit 16 ds 0).map (BitVec.ofNat 32) else none
  | _ => none

/-- A value for bitDepth or sampleRateDiv: a word in hexadecimal, or a decimal integer below 2^32 (R75). -/
def integerOperand (cs : List Char) : Option Word :=
  match hexWord cs with
  | some w => some w
  | none =>
    match decimal cs with
    | some n => if n < 2 ^ 32 then some (BitVec.ofNat 32 n) else none
    | none => none

/-- The word of f32(d) for a decimal d without sign: digits, or digits, a point and digits (R75, R14; log entry 22). -/
def unsignedDecimal (neg : Bool) (cs : List Char) : Option Word :=
  match pieces '.' cs with
  | [whole] => (decimal whole).map fun n => f32 (neg && decide (n ≠ 0)) n 1
  | [whole, part] =>
    match decimal whole, decimal part with
    | some n, some m =>
      let num := n * 10 ^ part.length + m
      some (f32 (neg && decide (num ≠ 0)) num (10 ^ part.length))
    | _, _ => none
  | _ => none

/-- A value for a real parameter or a sample (R75). -/
def realOperand (cs : List Char) : Option Word :=
  match hexWord cs with
  | some w => some w
  | none =>
    if cs = ['+', '0'] then some posZero
    else if cs = ['-', '0'] then some negZero
    else if cs = ['i', 'n', 'f'] then some posInf
    else if cs = ['-', 'i', 'n', 'f'] then some negInf
    else if cs = ['n', 'a', 'n'] then some qNaN
    else
      match cs with
      | '-' :: rest => unsignedDecimal true rest
      | '+' :: rest => unsignedDecimal false rest
      | _ => unsignedDecimal false cs

/-- The parameter names, in index order (R75). -/
def paramNames : List (List Char) :=
  [['b', 'i', 't', 'D', 'e', 'p', 't', 'h'],
   ['s', 'a', 'm', 'p', 'l', 'e', 'R', 'a', 't', 'e', 'D', 'i', 'v'],
   ['d', 'e', 'l', 'a', 'y', 'T', 'i', 'm', 'e'],
   ['d', 'e', 'l', 'a', 'y', 'F', 'e', 'e', 'd', 'b', 'a', 'c', 'k'],
   ['d', 'e', 'l', 'a', 'y', 'M', 'i', 'x'],
   ['r', 'e', 'v', 'e', 'r', 'b', 'M', 'i', 'x'],
   ['r', 'e', 'v', 'e', 'r', 'b', 'S', 'i', 'z', 'e']]

/-- The configuration word names, in index order (R75). -/
def cfgNames : List (List Char) :=
  [['F', 'S'],
   ['D', 'C', 'A', 'P'],
   ['C', 'O', 'M', 'B', '_', 'L', 'E', 'N', '0'],
   ['C', 'O', 'M', 'B', '_', 'L', 'E', 'N', '1'],
   ['C', 'O', 'M', 'B', '_', 'L', 'E', 'N', '2'],
   ['C', 'O', 'M', 'B', '_', 'L', 'E', 'N', '3'],
   ['A', 'P', '_', 'L', 'E', 'N'],
   ['A', 'P', '_', 'G', 'A', 'I', 'N'],
   ['S', 'T', 'A', 'T', 'U', 'S']]

/-- The index a name or a number stands for, in a list of names (R75). -/
def indexOf (names : List (List Char)) (cs : List Char) : Option Nat :=
  match names.findIdx? (fun n => decide (n = cs)) with
  | some k => some k
  | none =>
    match cs with
    | [c] => (decDigit c).bind fun k => if k < names.length then some k else none
    | _ => none

/-- The value of a PWR, by the kind of its parameter (R75). -/
def pwrOperand (k : Nat) (cs : List Char) : Option Word := if k ≤ 1 then integerOperand cs else realOperand cs

/-- The command of a mnemonic and its operand spellings (R75); `none` is the assembler's refusal. -/
def assemble (mnemonic : List Char) (ops : List (List Char)) : Option Instr :=
  match mnemonic, ops with
  | ['N', 'O', 'P'], [] => some .nop
  | ['P', 'W', 'R'], [p, v] =>
    (indexOf paramNames p).bind fun k => (pwrOperand k v).bind fun w => commandOf1 0x01 k w
  | ['P', 'R', 'D'], [p] => (indexOf paramNames p).bind fun k => commandOf0 0x02 k
  | ['C', 'F', 'G', 'R', 'D'], [c] => (indexOf cfgNames c).bind fun k => commandOf0 0x03 k
  | ['S', 'M', 'P'], [l, r] => (realOperand l).bind fun wl => (realOperand r).bind fun wr => commandOf2 0x10 0 wl wr
  | ['S', 'M', 'P', '.', 'B'], [l, r] =>
    (realOperand l).bind fun wl => (realOperand r).bind fun wr => commandOf2 0x10 1 wl wr
  | _, _ => none

/-- What a line of a program says (R75). -/
inductive AsmLine where
  /-- a line with no command: blank, or a comment -/
  | blank
  /-- a command -/
  | command (i : Instr)
  /-- a line the assembler refuses (R75, S10) -/
  | refused
  deriving DecidableEq, Repr

/-- A line of a program: one command, its operands between commas; from `;` on it is a comment (R75). -/
def assembleLine (line : List Char) : AsmLine :=
  let text := trim (line.takeWhile fun c => decide (c ≠ ';'))
  let mnemonic := text.takeWhile fun c => !isBlank c
  let rest := trim (text.drop mnemonic.length)
  if text = [] then .blank
  else
    match assemble mnemonic (if rest = [] then [] else (pieces ',' rest).map trim) with
    | some i => .command i
    | none => .refused

/-- A label line names the port of the lines under it (R75). -/
def labelOf (line : List Char) : Option Port :=
  let text := trim (line.takeWhile fun c => decide (c ≠ ';'))
  if text = ['C', 'T', 'R', 'L', ':'] then some .ctrl
  else if text = ['S', 'M', 'P', 'L', ':'] then some .smpl
  else none

/-- A program is two streams, one for each port (R75): the words of CTRL, then the words of SMPL, or the first line that
is refused (S10), a command above any label among them. The port is that of the last label; whether it accepts a command
is the block's to say (R73; log entry 22). -/
def assembleProgram : Option Port → List (List Char) → Except (List Char) (List Word × List Word)
  | _, [] => .ok ([], [])
  | port, line :: rest =>
    match labelOf line with
    | some p => assembleProgram (some p) rest
    | none =>
      match assembleLine line, port with
      | .blank, _ => assembleProgram port rest
      | .command i, some .ctrl => (assembleProgram port rest).map fun x => (encode i ++ x.1, x.2)
      | .command i, some .smpl => (assembleProgram port rest).map fun x => (x.1, encode i ++ x.2)
      | .command _, none => .error line
      | .refused, _ => .error line

/-! ## Pseudo-commands (R76) -/

/-- The keys given to one SETPARAMS (R76). -/
structure Partial where
  bitDepth : Option Word
  sampleRateDiv : Option Word
  delayTime : Option Word
  delayFeedback : Option Word
  delayMix : Option Word
  reverbMix : Option Word
  reverbSize : Option Word
  deriving DecidableEq, Repr

/-- SETPARAMS on CTRL: one PWR per key given, in index order; keys not given are not written (R76). -/
def setParams (k : Partial) : List Instr :=
  (k.bitDepth.map Instr.pwrBitDepth).toList ++ (k.sampleRateDiv.map Instr.pwrSampleRateDiv).toList ++
  (k.delayTime.map Instr.pwrDelayTime).toList ++ (k.delayFeedback.map Instr.pwrDelayFeedback).toList ++
  (k.delayMix.map Instr.pwrDelayMix).toList ++ (k.reverbMix.map Instr.pwrReverbMix).toList ++
  (k.reverbSize.map Instr.pwrReverbSize).toList

/-- SYNC on CTRL (R76). -/
def sync : List Instr := [.prdBitDepth]

/-- BLOCK on SMPL: SMP.B for the first pair of samples, SMP for the others (R76). -/
def block (first : Lanes) (rest : List Lanes) : List Instr :=
  .smpB first.l first.r :: rest.map fun x => .smp x.l x.r

/-- The words of a stream of commands, in the order they are sent (R65). -/
def encodeStream (cs : List Instr) : List Word := cs.flatMap encode

end Sys2Proof.Machine
end

