-- ==== Sys2Proof/Safety.lean ====
section
/-! DEFINITION. What the claims speak of: the invariant of the machine (the ranges of 10_state.md and 20_memory.md R44,
R45, R59), the value of a binary32 word and what it is for a word to be a real number rounded, and the pseudo-code of a sample step as the
spec writes it. -/

namespace Sys2Proof.Machine

/-- Every listed index of a memory is below its size (R44, R45). -/
def Memory.within (size : Nat) (m : Memory) : Bool := m.all fun c => decide (c.1 < size)

/-- A memory in canonical form and inside its size. -/
def memoryOk (size : Nat) (m : Memory) : Bool := Memory.wf m && Memory.within size m

/-- A binary32 parameter holds a value inside its bounds, and not -0 (R21 to R28). -/
def inBounds (x lo hi : Word) : Bool :=
  isFinite x && decide (x ≠ negZero) && decide (units lo ≤ units x) && decide (units x ≤ units hi)

/-- Every parameter register holds a value inside its domain (R21). -/
def Params.ok (P : Params) : Bool :=
  decide (1 ≤ P.bitDepth) && decide (P.bitDepth ≤ 16) &&
  decide (1 ≤ P.sampleRateDiv) && decide (P.sampleRateDiv ≤ 16) &&
  inBounds P.delayTime delayTimeMin delayTimeMax && inBounds P.delayFeedback posZero delayFeedbackMax &&
  inBounds P.delayMix posZero one32 && inBounds P.reverbMix posZero one32 && inBounds P.reverbSize reverbSizeMin one32

/-- Every stage register is inside its range and every memory inside its size (R33 to R38, R44, R45). -/
def Stage.ok (c : Cfg) (g : Stage) : Bool :=
  decide (g.latch < c.dcap) && decide (g.ctr < 16) && indicesInRange c g &&
  memoryOk c.dcap g.dl && memoryOk c.dcap g.dr &&
  memoryOk c.combLen.q0 g.comb.q0 && memoryOk c.combLen.q1 g.comb.q1 &&
  memoryOk c.combLen.q2 g.comb.q2 && memoryOk c.combLen.q3 g.comb.q3 && memoryOk c.apLen g.ap

/-- The parser of port `p` is Idle, or collects operands of a legal header and still needs at least one (R39). -/
def parseOk (p : Port) (x : Parse) : Bool :=
  match x with
  | .idle => true
  | .collecting h ops => legal p h && decide (ops.length < nOperands (opField h))

/-- A port's side of the block: a legal parser state, a waiting command only of this port and only with the parser
Idle, and at most RESP_DEPTH response words (R39, R54, R59). -/
def portOk (depth : Nat) (p : Port) (x : PortState) : Bool :=
  parseOk p x.parse && decide (x.resp.length ≤ depth) &&
  match x.waiting with
  | none => true
  | some i => Instr.wellFormed p i && decide (x.parse = .idle)

/-- The invariant of the machine: an allowed configuration, parameters in their domains, stage registers and memories
in their ranges, ports in order. -/
def MachineInv (s : State) : Prop :=
  s.cfg.wf = true ∧ s.params.ok = true ∧ s.stage.ok s.cfg = true ∧
  portOk s.cfg.respDepth .ctrl s.ctrl = true ∧ portOk s.cfg.respDepth .smpl s.smpl = true

/-- Memory `m'` is `m` with word `v` at element `i` and every other element as before. -/
def WrittenAt (i : Nat) (v : Word) (m m' : Memory) : Prop :=
  memRead m' i = v ∧ ∀ j, j ≠ i → memRead m' j = memRead m j

/-- The value of a finite word (R10). -/
def value (w : Word) : ℚ := (units w : ℚ) / 2 ^ 149

/-- The least magnitude that rounds to an infinity: half a unit in the last place above the largest finite value. -/
def overflowAt : ℚ := (2 ^ 25 - 1) * 2 ^ 103

/-- Word `w` is the real `x` rounded to binary32 with roundTiesToEven, overflow to the infinity of its sign (R11). For
x = 0 either zero will do: which one is the operation's to say. -/
def IsRounded (x : ℝ) (w : Word) : Prop :=
  if |x| < ((overflowAt : ℚ) : ℝ) then
    isFinite w = true ∧
    (∀ v : Word, isFinite v = true → |x - ((value w : ℚ) : ℝ)| ≤ |x - ((value v : ℚ) : ℝ)|) ∧
    (∀ v : Word, isFinite v = true → value v ≠ value w →
      |x - ((value v : ℚ) : ℝ)| = |x - ((value w : ℚ) : ℝ)| → fracField w % 2 = 0) ∧
    (x < 0 → signBit w = true) ∧ (0 < x → signBit w = false)
  else w = if x < 0 then negInf else posInf

/-- Every memory element is finite (R97's premise). -/
def Stage.finite (g : Stage) : Bool :=
  g.dl.all (fun c => isFinite c.2) && g.dr.all (fun c => isFinite c.2) &&
  g.comb.q0.all (fun c => isFinite c.2) && g.comb.q1.all (fun c => isFinite c.2) &&
  g.comb.q2.all (fun c => isFinite c.2) && g.comb.q3.all (fun c => isFinite c.2) && g.ap.all (fun c => isFinite c.2)

/-- The commands that are sample steps (R95). -/
def isSample (i : Instr) : Bool :=
  match i with
  | .smp _ _ | .smpB _ _ => true
  | _ => false

/-- The commands that write a parameter register (R80). -/
def isParamWrite (i : Instr) : Bool :=
  match i with
  | .pwrBitDepth _ | .pwrSampleRateDiv _ | .pwrDelayTime _ | .pwrDelayFeedback _ | .pwrDelayMix _
  | .pwrReverbMix _ | .pwrReverbSize _ => true
  | _ => false

/-- SMP or SMP.B, by its B (R69). -/
def sampleCommand (B : Bool) (wl wr : Word) : Instr :=
  match B with
  | false => .smp wl wr
  | true => .smpB wl wr

/-- The words of a command a parser has taken so far (R39). -/
def wordsTaken (x : Parse) : List Word :=
  match x with
  | .idle => []
  | .collecting h ops => h :: ops

/-- The values of one sample step, named as the pseudo-code of R90 to R129 names them. -/
structure Trace where
  D : Nat
  sL : Word
  sR : Word
  dL : Word
  dR : Word
  wL : Word
  wR : Word
  m : Word
  cf : Word
  v : Quad Word
  pre : Word
  a : Word
  wap : Word
  dif : Word
  yL : Word
  yR : Word

/-- The pseudo-code of a sample step, from the state before it: each stage reads its element before it writes it
(R47), so every read is of that state (R90, R98, R106, R111, R113, R116, R121, R122, R124, R125, R127, R129). -/
def trace (B : Bool) (wl wr : Word) (s : State) : Trace :=
  let P := s.params
  let g := s.stage
  let D := if B then (floorI (mul32 P.delayTime (toF32 s.cfg.fs))).toNat else g.latch
  let sL := if g.ctr = 0 then quantize wl P.bitDepth else g.heldL
  let sR := if g.ctr = 0 then quantize wr P.bitDepth else g.heldR
  let r := (((g.dHead : Int) - (D : Int) + (2 * s.cfg.fs : Int)) % (2 * s.cfg.fs : Int)).toNat
  let dL := memRead g.dl r
  let dR := memRead g.dr r
  let om := sub32 0x3F800000#32 P.delayMix
  let wL := add32 (mul32 sL om) (mul32 dL P.delayMix)
  let wR := add32 (mul32 sR om) (mul32 dR P.delayMix)
  let m := mul32 0x3F000000#32 (add32 wL wR)
  let cf := mul32 0x3F570A3D#32 P.reverbSize
  let v : Quad Word := ⟨memRead g.comb.q0 g.cHead.q0, memRead g.comb.q1 g.cHead.q1, memRead g.comb.q2 g.cHead.q2,
    memRead g.comb.q3 g.cHead.q3⟩
  let pre := mul32 (add32 (add32 (add32 v.q0 v.q1) v.q2) v.q3) 0x3E800000#32
  let a := memRead g.ap g.apHead
  let wap := add32 pre (mul32 a s.cfg.apGain)
  let dif := sub32 a (mul32 s.cfg.apGain wap)
  { D := D, sL := sL, sR := sR, dL := dL, dR := dR, wL := wL, wR := wR, m := m, cf := cf, v := v, pre := pre, a := a,
    wap := wap, dif := dif, yL := add32 wL (mul32 dif P.reverbMix), yR := add32 wR (mul32 dif P.reverbMix) }

end Sys2Proof.Machine
end

