-- ==== Sys2Proof/Certificates/Slice0/Obligations.lean ====
section
/-! DEFINITION. The statements for the provers. Each docstring names the rules of spec/ it formalises; a convention of
the model's own is named with its log entry. -/

open Sys2Proof Sys2Proof.Machine

/-! ## Encoding -/

/-- Decoding the words of any command on a port that accepts it gives the command back and leaves the words after it
(30_encoding.md R65, R68, R71). -/
def Obligations.DecodeOfEncodeIsTheCommand : Prop :=
  ∀ (p : Port) (i : Instr) (rest : List Word), i.wellFormed p = true → decode p (encode i ++ rest) = .ok (i, rest)

/-- What the decoder reads is the encoding of what it answers, of a command the port accepts (30_encoding.md R68, R71). -/
def Obligations.DecodedWordsAreTheEncoding : Prop :=
  ∀ (p : Port) (ws : List Word) (i : Instr) (rest : List Word), decode p ws = .ok (i, rest) →
    ws = encode i ++ rest ∧ i.wellFormed p = true

/-- The headers legal on CTRL are the 24 words of R68, those legal on SMPL the three words of R68, and no others. -/
def Obligations.LegalHeadersAreTheTable : Prop :=
  ∀ (p : Port) (h : Word), legal p h = true ↔
    h ∈ (match p with
      | .ctrl => [0x00000000#32,
          0x01000000#32, 0x01000001#32, 0x01000002#32, 0x01000003#32, 0x01000004#32, 0x01000005#32, 0x01000006#32,
          0x02000000#32, 0x02000001#32, 0x02000002#32, 0x02000003#32, 0x02000004#32, 0x02000005#32, 0x02000006#32,
          0x03000000#32, 0x03000001#32, 0x03000002#32, 0x03000003#32, 0x03000004#32, 0x03000005#32, 0x03000006#32,
          0x03000007#32, 0x03000008#32]
      | .smpl => [0x00000000#32, 0x10000000#32, 0x10000001#32])

/-- On a byte-serial bridge each word is carried least significant byte first (R49), and the words and commands come
back from the bytes. -/
def Obligations.BridgeCarriesLeastSignificantByteFirst : Prop :=
  (∀ w : Word, wordBytes w = [w.extractLsb' 0 8, w.extractLsb' 8 8, w.extractLsb' 16 8, w.extractLsb' 24 8]) ∧
  (∀ ws : List Word, wordsOfBytes (ws.flatMap wordBytes) = ws) ∧
  (∀ (p : Port) (i : Instr), i.wellFormed p = true → decodeBytes p (encodeBytes i) = .ok (i, []))

/-- The worked encodings of R77: each assembly line is a command, and its words decode to that command. -/
def Obligations.WorkedEncodingsDecode : Prop :=
  ∀ x ∈ [("NOP", Port.ctrl, Instr.nop, [0x00000000#32]),
    ("PWR bitDepth, 8", .ctrl, .pwrBitDepth 8#32, [0x01000000#32, 0x00000008#32]),
    ("PWR sampleRateDiv, 4", .ctrl, .pwrSampleRateDiv 4#32, [0x01000001#32, 0x00000004#32]),
    ("PWR delayTime, 0.3", .ctrl, .pwrDelayTime 0x3E99999A#32, [0x01000002#32, 0x3E99999A#32]),
    ("PWR delayFeedback, 0.5", .ctrl, .pwrDelayFeedback 0x3F000000#32, [0x01000003#32, 0x3F000000#32]),
    ("PWR delayMix, 1", .ctrl, .pwrDelayMix 0x3F800000#32, [0x01000004#32, 0x3F800000#32]),
    ("PWR reverbMix, 0.25", .ctrl, .pwrReverbMix 0x3E800000#32, [0x01000005#32, 0x3E800000#32]),
    ("PWR reverbSize, 1", .ctrl, .pwrReverbSize 0x3F800000#32, [0x01000006#32, 0x3F800000#32]),
    ("PRD reverbSize", .ctrl, .prdReverbSize, [0x02000006#32]),
    ("CFGRD STATUS", .ctrl, .cfgrdStatus, [0x03000008#32]),
    ("SMP 0.5, -0.5", .smpl, .smp 0x3F000000#32 0xBF000000#32, [0x10000000#32, 0x3F000000#32, 0xBF000000#32]),
    ("SMP.B 1, 0", .smpl, .smpB 0x3F800000#32 0x00000000#32, [0x10000001#32, 0x3F800000#32, 0x00000000#32])],
    assembleLine x.1.toList = .command x.2.2.1 ∧ encode x.2.2.1 = x.2.2.2 ∧
    decode x.2.1 x.2.2.2 = .ok (x.2.2.1, [])

/-- The pseudo-commands of R76: SETPARAMS writes the keys given, in index order, and no others; SYNC is PRD bitDepth;
BLOCK is SMP.B and then SMP for each further sample. -/
def Obligations.PseudoCommandsExpand : Prop :=
  (∀ k : Partial, setParams k = [k.bitDepth.map Instr.pwrBitDepth, k.sampleRateDiv.map Instr.pwrSampleRateDiv,
    k.delayTime.map Instr.pwrDelayTime, k.delayFeedback.map Instr.pwrDelayFeedback, k.delayMix.map Instr.pwrDelayMix,
    k.reverbMix.map Instr.pwrReverbMix, k.reverbSize.map Instr.pwrReverbSize].filterMap id) ∧
  encodeStream sync = [0x02000000#32] ∧
  (∀ l r : Word, encodeStream (block ⟨l, r⟩ []) = [0x10000001#32, l, r]) ∧
  (∀ (first x : Lanes) (xs : List Lanes), encodeStream (block first (xs ++ [x])) =
    encodeStream (block first xs) ++ [0x10000000#32, x.l, x.r])

/-! ## Reset -/

/-- After reset every piece of state has the value of the table of R42, for every configuration. -/
def Obligations.ResetStateIsTheTable : Prop :=
  ∀ c : Cfg, (State.resetWith c).cfg = c ∧
    (State.resetWith c).params = ⟨16, 1, 0x3E800000#32, 0x00000000#32, 0x00000000#32, 0x00000000#32, 0x3F000000#32⟩ ∧
    (State.resetWith c).stage.latch = (floorI (mul32 0x3E800000#32 (toF32 c.fs))).toNat ∧
    (State.resetWith c).stage.dHead = 0 ∧ (State.resetWith c).stage.ctr = 0 ∧
    (State.resetWith c).stage.heldL = 0x00000000#32 ∧ (State.resetWith c).stage.heldR = 0x00000000#32 ∧
    (State.resetWith c).stage.cHead = ⟨0, 0, 0, 0⟩ ∧ (State.resetWith c).stage.apHead = 0 ∧
    (∀ i, memRead (State.resetWith c).stage.dl i = 0x00000000#32 ∧ memRead (State.resetWith c).stage.dr i = 0x00000000#32 ∧
      memRead (State.resetWith c).stage.comb.q0 i = 0x00000000#32 ∧
      memRead (State.resetWith c).stage.comb.q1 i = 0x00000000#32 ∧
      memRead (State.resetWith c).stage.comb.q2 i = 0x00000000#32 ∧
      memRead (State.resetWith c).stage.comb.q3 i = 0x00000000#32 ∧
      memRead (State.resetWith c).stage.ap i = 0x00000000#32) ∧
    statusWord (State.resetWith c) = 0x00000000#32 ∧
    (∀ p, ((State.resetWith c).port p).parse = .idle ∧ ((State.resetWith c).port p).resp = [])

/-- Applying reset is one step, before every command and event in progress: all state of the block takes its reset value
and the construction constants stay (R143, R155). That a waiting command is discarded and that the hosts keep the words
they have removed is the model's reading (log entries 6 and 20). -/
def Obligations.ResetActPutsEverythingBack : Prop :=
  ∀ (s : State) (n m : Nat) (rest : List Act), s.sched = .reset n m :: rest →
    ∃ t, step s = .next t ∧ t.cfg = s.cfg ∧ t.params = (State.resetWith s.cfg).params ∧
      t.stage = (State.resetWith s.cfg).stage ∧ t.status = 0#2 ∧
      (∀ p, t.port p = { parse := .idle, waiting := none, resp := [] } ∧ (t.host p).received = (s.host p).received)

/-- The machine at reset meets the invariant, whatever its free sample rate and queue depth are (R42; log entries 1
and 2). -/
def Obligations.ResetMeetsTheInvariant : Prop := MachineInv State.reset

/-! ## The machine -/

/-- From every state that meets the invariant a step gives a state that meets it: parameters stay in their domains
(R21), heads, latch and counter in their ranges (R33 to R38), memories in canonical form and inside their sizes (R44,
R45), parsers legal (R39), queues within RESP_DEPTH (R59). -/
def Obligations.EveryStepKeepsTheInvariant : Prop :=
  ∀ s t : State, MachineInv s → step s = .next t → MachineInv t

/-- No step from a state that meets the invariant stops: no command, stage or word raises anything that ends the run
(R45, R138, R140). -/
def Obligations.NoStepStops : Prop := ∀ s : State, MachineInv s → ∃ t, step s = .next t

/-- When the words a port has taken and its next word are together a command, and its responses fit, the step is exec
of that command, with the word taken and the parser Idle (R55, R70). That it runs in this very step is the model's reading
(log entry 6). -/
def Obligations.StepRunsTheDecodedCommand : Prop :=
  ∀ (s : State) (p : Port) (rest : List Act) (w : Word) (ws : List Word) (i : Instr),
    s.sched = .serve p :: rest → (s.port p).waiting = none → (s.host p).toSend = w :: ws →
    decode p (wordsTaken (s.port p).parse ++ [w]) = .ok (i, []) → fits p i s = true →
    step s = exec i (((s.setSched rest).setHost p { s.host p with toSend := ws }).setPort p
      { s.port p with parse := .idle })

/-- A port that is Idle, with a command's words sent on it and room for its responses, runs the command after as many
turns as it has words, and nothing else happens before (R55, R70, R71). -/
def Obligations.DeliveredWordsRunTheCommand : Prop :=
  ∀ (s : State) (p : Port) (rest : List Act) (ws : List Word) (i : Instr),
    i.wellFormed p = true → s.sched = List.replicate (encode i).length (.serve p) ++ rest →
    (s.port p).waiting = none → (s.port p).parse = .idle → (s.host p).toSend = encode i ++ ws → fits p i s = true →
    Host.Core.run Sys2Proof.core (encode i).length s =
      exec i ((s.setSched rest).setHost p { s.host p with toSend := ws })

/-- A legal header whose command takes operand words, and an operand word that is not the last, are kept by the parser;
nothing else changes (R70). -/
def Obligations.ParserKeepsHeaderAndOperands : Prop :=
  ∀ (s : State) (p : Port) (rest : List Act) (w : Word) (ws : List Word),
    s.sched = .serve p :: rest → (s.port p).waiting = none → (s.host p).toSend = w :: ws →
    ((s.port p).parse = .idle → legal p w = true → 0 < nOperands (opField w) →
      step s = .next (((s.setSched rest).setHost p { s.host p with toSend := ws }).setPort p
        { s.port p with parse := .collecting w [] })) ∧
    (∀ h ops, (s.port p).parse = .collecting h ops → legal p h = true → ops.length + 1 < nOperands (opField h) →
      step s = .next (((s.setSched rest).setHost p { s.host p with toSend := ws }).setPort p
        { s.port p with parse := .collecting h (ops ++ [w]) }))

/-- An illegal header sets the STATUS bit of its port and is dropped: the parser stays Idle, no response is given and
nothing else of the block changes (R140). How many such events the model has recorded is its own field, left to
RecordedFaultsAreNeverCleared. -/
def Obligations.IllegalHeaderEffect : Prop :=
  ∀ (s : State) (p : Port) (rest : List Act) (h : Word) (ws : List Word),
    s.sched = .serve p :: rest → (s.port p).waiting = none → (s.port p).parse = .idle → (s.host p).toSend = h :: ws →
    legal p h = false →
    ∃ n, step s = .next ((((s.setSched rest).setHost p { s.host p with toSend := ws }).setStatus
      (s.status ||| (match p with
        | .ctrl => 0b01#2
        | .smpl => 0b10#2))).setFaults p n)

/-- A complete command whose responses do not fit is held back; while it is, its port takes no word; it runs at the
first turn at which they fit (R59, R164). How the model holds it, and that a full queue holds every command, is log
entry 6; that a turn in vain changes the schedule only is log entry 17. -/
def Obligations.CommandWaitsForRoom : Prop :=
  ∀ (s : State) (p : Port) (rest : List Act) (i : Instr), s.sched = .serve p :: rest →
    (∀ w ws, (s.port p).waiting = none → (s.host p).toSend = w :: ws →
      decode p (wordsTaken (s.port p).parse ++ [w]) = .ok (i, []) → fits p i s = false →
      step s = .next (((s.setSched rest).setHost p { s.host p with toSend := ws }).setPort p
        { s.port p with parse := .idle, waiting := some i })) ∧
    ((s.port p).waiting = some i → fits p i s = false → step s = .next (s.setSched rest)) ∧
    ((s.port p).waiting = some i → fits p i s = true →
      step s = exec i ((s.setSched rest).setPort p { s.port p with waiting := none }))

/-- With nothing scheduled, and on a port with no word to take and no command waiting, the block keeps all its state
(R150; the schedule and a turn with nothing to do are the model's own, log entries 5 and 17). -/
def Obligations.IdleBlockKeepsItsState : Prop :=
  (∀ s : State, s.sched = [] → step s = .next s) ∧
  (∀ (s : State) (p : Port) (rest : List Act), s.sched = .serve p :: rest → (s.port p).waiting = none →
    (s.host p).toSend = [] → step s = .next (s.setSched rest))

/-- The host removes the word at the head of its port's queue (R58, R152). That a removal from an empty queue changes
nothing but the schedule is the model's own choice (log entry 17). -/
def Obligations.HostRemovesTheOldestResponse : Prop :=
  ∀ (s : State) (p : Port) (rest : List Act), s.sched = .remove p :: rest →
    (∀ w ws, (s.port p).resp = w :: ws →
      step s = .next (((s.setSched rest).setPort p { s.port p with resp := ws }).setHost p
        { s.host p with received := (s.host p).received ++ [w] })) ∧
    ((s.port p).resp = [] → step s = .next (s.setSched rest))

/-- On each port the words removed and those still queued only grow at the end, in every step but reset: responses come
out first in, first out, and none is lost or changed (R58). -/
def Obligations.ResponsesComeOutInOrder : Prop :=
  ∀ (s t : State) (p : Port), (∀ n m rest, s.sched ≠ .reset n m :: rest) → step s = .next t →
    (s.host p).received ++ (s.port p).resp <+: (t.host p).received ++ (t.port p).resp

/-- Serving one port leaves the other port and its host as they are: responses never move between ports and a stalled
port does not hold the other (R58, R59, R163). -/
def Obligations.OtherPortIsUntouched : Prop :=
  ∀ (s t : State) (p q : Port) (rest : List Act), MachineInv s → s.sched = .serve p :: rest → step s = .next t → q ≠ p →
    t.port q = s.port q ∧ t.host q = s.host q

/-- The STATUS bits are sticky: no command changes STATUS, and no step but reset clears a bit (R32, R40). -/
def Obligations.StatusIsSticky : Prop :=
  (∀ (i : Instr) (s t : State), exec i s = .next t → t.status = s.status) ∧
  (∀ s t : State, (∀ n m rest, s.sched ≠ .reset n m :: rest) → step s = .next t → s.status &&& t.status = s.status)

/-- A run of the model is over exactly when both parsers are Idle and both response queues are empty (R152); that no
command waits either is the model's reading (log entry 26). It is over at reset. -/
def Obligations.RunIsOverWhenPortsAreDone : Prop :=
  (∀ s : State, runOver s = true ↔
    ∀ p, (s.port p).parse = .idle ∧ (s.port p).resp = [] ∧ (s.port p).waiting = none) ∧
  ∀ c : Cfg, runOver (State.resetWith c) = true

/-- Where a run is over and the hosts have no more words to send, it stays over, and no act but reset changes anything
but the schedule (R150, R152; the schedule is the model's own, log entries 5 and 17). -/
def Obligations.FinishedRunStaysOver : Prop :=
  ∀ s t : State, runOver s = true → (∀ p, (s.host p).toSend = []) → step s = .next t →
    runOver t = true ∧ (∀ p, (t.host p).toSend = []) ∧
    ((∀ n m rest, s.sched ≠ .reset n m :: rest) → t = s.setSched s.sched.tail)

/-- The IllegalCommand events the model records (R141): an illegal header taken by an Idle port adds one on that port,
and no step takes any away, reset neither (that they are counted so is the model's choice, log entry 7). -/
def Obligations.RecordedFaultsAreNeverCleared : Prop :=
  (∀ (s t : State) (p : Port), step s = .next t → s.faults p ≤ t.faults p) ∧
  (∀ (s t : State) (p : Port) (rest : List Act) (h : Word) (ws : List Word), s.sched = .serve p :: rest →
    (s.port p).waiting = none → (s.port p).parse = .idle → (s.host p).toSend = h :: ws → legal p h = false →
    step s = .next t → t.faults p = s.faults p + 1)

/-! ## Control commands -/

/-- NOP, on either port, changes nothing (R79). -/
def Obligations.NopDoesNothing : Prop :=
  (∀ p : Port, decode p [0x00000000#32] = .ok (.nop, [])) ∧ ∀ s : State, exec .nop s = .next s

/-- PWR bitDepth and PWR sampleRateDiv store the operand, an unsigned integer, clamped to 1..16, and change nothing
else (R81, R82). -/
def Obligations.PwrStoresClampedIntegers : Prop :=
  ∀ (v : Word) (s : State),
    decode .ctrl [0x01000000#32, v] = .ok (.pwrBitDepth v, []) ∧
    exec (.pwrBitDepth v) s = .next { s with params := { s.params with bitDepth := min (max v.toNat 1) 16 } } ∧
    decode .ctrl [0x01000001#32, v] = .ok (.pwrSampleRateDiv v, []) ∧
    exec (.pwrSampleRateDiv v) s =
      .next { s with params := { s.params with sampleRateDiv := min (max v.toNat 1) 16 } }

/-- PWR delayTime, delayFeedback and delayMix store the operand clamped to their bounds and change nothing else (R83,
R84, R85). -/
def Obligations.PwrStoresClampedDelayParameters : Prop :=
  ∀ (v : Word) (s : State),
    decode .ctrl [0x01000002#32, v] = .ok (.pwrDelayTime v, []) ∧
    exec (.pwrDelayTime v) s =
      .next { s with params := { s.params with delayTime := clampF v 0x3C23D70A#32 0x3FF33333#32 } } ∧
    decode .ctrl [0x01000003#32, v] = .ok (.pwrDelayFeedback v, []) ∧
    exec (.pwrDelayFeedback v) s =
      .next { s with params := { s.params with delayFeedback := clampF v 0x00000000#32 0x3F733333#32 } } ∧
    decode .ctrl [0x01000004#32, v] = .ok (.pwrDelayMix v, []) ∧
    exec (.pwrDelayMix v) s =
      .next { s with params := { s.params with delayMix := clampF v 0x00000000#32 0x3F800000#32 } }

/-- PWR reverbMix and reverbSize store the operand clamped to their bounds and change nothing else (R86, R87). -/
def Obligations.PwrStoresClampedReverbParameters : Prop :=
  ∀ (v : Word) (s : State),
    decode .ctrl [0x01000005#32, v] = .ok (.pwrReverbMix v, []) ∧
    exec (.pwrReverbMix v) s =
      .next { s with params := { s.params with reverbMix := clampF v 0x00000000#32 0x3F800000#32 } } ∧
    decode .ctrl [0x01000006#32, v] = .ok (.pwrReverbSize v, []) ∧
    exec (.pwrReverbSize v) s =
      .next { s with params := { s.params with reverbSize := clampF v 0x3DCCCCCD#32 0x3F800000#32 } }

/-- The clamps in terms of values: clampI to 1..16; clampF sends NaN, -inf and what is below to the lower bound, +inf
and what is above to the upper bound, keeps what is inside, and stores -0 as +0 (R78). -/
def Obligations.ClampsFollowValues : Prop :=
  (∀ u : Nat, clampI u = min (max u 1) 16 ∧ 1 ≤ clampI u ∧ clampI u ≤ 16) ∧
  (∀ x lo hi : Word, isFinite lo = true → isFinite hi = true → signBit lo = false → signBit hi = false →
    value lo ≤ value hi →
    (isNaN x = true → clampF x lo hi = lo) ∧ (x = negInf → clampF x lo hi = lo) ∧ (x = posInf → clampF x lo hi = hi) ∧
    (isFinite x = true →
      (value x < value lo → clampF x lo hi = lo) ∧ (value hi < value x → clampF x lo hi = hi) ∧
      (value lo ≤ value x → value x ≤ value hi → clampF x lo hi = if x = negZero then posZero else x)))

/-- No command puts a parameter outside its domain, whatever word is written (R21, R29). -/
def Obligations.ParametersStayInTheirDomains : Prop :=
  ∀ (i : Instr) (s t : State), s.params.ok = true → exec i s = .next t → t.params.ok = true

/-- Each PRD answers the stored parameter as one response word on CTRL and changes nothing else (R88). -/
def Obligations.PrdReturnsTheStoredParameter : Prop :=
  ∀ (i : Instr) (h w : Word) (s : State),
    (i, h, w) ∈ [(Instr.prdBitDepth, 0x02000000#32, BitVec.ofNat 32 s.params.bitDepth),
      (.prdSampleRateDiv, 0x02000001#32, BitVec.ofNat 32 s.params.sampleRateDiv),
      (.prdDelayTime, 0x02000002#32, s.params.delayTime), (.prdDelayFeedback, 0x02000003#32, s.params.delayFeedback),
      (.prdDelayMix, 0x02000004#32, s.params.delayMix), (.prdReverbMix, 0x02000005#32, s.params.reverbMix),
      (.prdReverbSize, 0x02000006#32, s.params.reverbSize)] →
    decode .ctrl [h] = .ok (i, []) ∧
    exec i s = .next { s with ctrl := { s.ctrl with resp := s.ctrl.resp ++ [w] } }

/-- Each CFGRD answers its configuration word, or STATUS with bits 31:2 read as 0, as one response word on CTRL and
changes nothing else (R31, R89). -/
def Obligations.CfgrdReturnsTheWord : Prop :=
  ∀ (i : Instr) (h w : Word) (s : State),
    (i, h, w) ∈ [(Instr.cfgrdFs, 0x03000000#32, BitVec.ofNat 32 s.cfg.fs),
      (.cfgrdDcap, 0x03000001#32, BitVec.ofNat 32 (2 * s.cfg.fs)),
      (.cfgrdCombLen0, 0x03000002#32, BitVec.ofNat 32 s.cfg.combLen.q0),
      (.cfgrdCombLen1, 0x03000003#32, BitVec.ofNat 32 s.cfg.combLen.q1),
      (.cfgrdCombLen2, 0x03000004#32, BitVec.ofNat 32 s.cfg.combLen.q2),
      (.cfgrdCombLen3, 0x03000005#32, BitVec.ofNat 32 s.cfg.combLen.q3),
      (.cfgrdApLen, 0x03000006#32, BitVec.ofNat 32 s.cfg.apLen), (.cfgrdApGain, 0x03000007#32, s.cfg.apGain),
      (.cfgrdStatus, 0x03000008#32, s.status.setWidth 32)] →
    decode .ctrl [h] = .ok (i, []) ∧
    exec i s = .next { s with ctrl := { s.ctrl with resp := s.ctrl.resp ++ [w] } }

/-- Only sample steps change stage state; a PWR changes only parameter registers; PRD, CFGRD and NOP change nothing but
a response queue (R95). -/
def Obligations.OnlySampleStepsChangeStageState : Prop :=
  ∀ (i : Instr) (s t : State), exec i s = .next t →
    (isSample i = false → t.stage = s.stage) ∧
    (isParamWrite i = true → t = { s with params := t.params }) ∧
    (isSample i = false → isParamWrite i = false → t = { s with ctrl := { s.ctrl with resp := t.ctrl.resp } })

/-! ## The sample step -/

/-- SMP and SMP.B answer tanhRN of the two lanes of the cascade, left then right, on SMPL, and change nothing but stage
state and that queue (R90, R92, R133): parameters, configuration, STATUS, the CTRL port, the parsers and the hosts are
as before. -/
def Obligations.SampleStepAnswersTwoLanes : Prop :=
  ∀ (B : Bool) (wl wr : Word) (s : State), indicesInRange s.cfg s.stage = true →
    ∃ g : Stage, exec (sampleCommand B wl wr) s = .next { s with
      stage := g
      smpl := { s.smpl with
        resp := s.smpl.resp ++ [tanhRN (trace B wl wr s).yL, tanhRN (trace B wl wr s).yR] } }

/-- The decimator in SMP and SMP.B: both held registers capture stage 1's outputs when the counter is 0 and keep their
words otherwise, they are what stage 2 puts out, and the counter advances modulo the divisor (R98, R106). -/
def Obligations.DecimatorCapturesAndCounts : Prop :=
  ∀ (B : Bool) (wl wr : Word) (s : State), indicesInRange s.cfg s.stage = true →
    ∃ t, exec (sampleCommand B wl wr) s = .next t ∧
      t.stage.heldL = (if s.stage.ctr = 0 then quantize wl s.params.bitDepth else s.stage.heldL) ∧
      t.stage.heldR = (if s.stage.ctr = 0 then quantize wr s.params.bitDepth else s.stage.heldR) ∧
      t.stage.ctr = (s.stage.ctr + 1) % s.params.sampleRateDiv ∧
      (trace B wl wr s).sL = t.stage.heldL ∧ (trace B wl wr s).sR = t.stage.heldR

/-- The delay length latch is floorI(mul32(delayTime, toF32(FS))) after SMP.B and at reset, and no other command writes
it (R111). -/
def Obligations.LatchMovesOnlyAtBlockStart : Prop :=
  (∀ (wl wr : Word) (s : State), indicesInRange s.cfg s.stage = true →
    ∃ t, exec (.smpB wl wr) s = .next t ∧
      t.stage.latch = (floorI (mul32 s.params.delayTime (toF32 s.cfg.fs))).toNat) ∧
  (∀ (i : Instr) (s t : State), (∀ wl wr, i ≠ .smpB wl wr) → exec i s = .next t → t.stage.latch = s.stage.latch) ∧
  (∀ c : Cfg, (State.resetWith c).stage.latch =
    (floorI (mul32 (State.resetWith c).params.delayTime (toF32 c.fs))).toNat)

/-- The delay line in SMP and SMP.B: each channel's memory gets input + delayed × delayFeedback at the head, read before
it is written, every other element stays, and the head advances modulo DCAP (R113, R114, R115). -/
def Obligations.DelayLineWritesAtTheHead : Prop :=
  ∀ (B : Bool) (wl wr : Word) (s : State), s.stage.ok s.cfg = true →
    ∃ t, exec (sampleCommand B wl wr) s = .next t ∧
      WrittenAt s.stage.dHead (add32 (trace B wl wr s).sL (mul32 (trace B wl wr s).dL s.params.delayFeedback))
        s.stage.dl t.stage.dl ∧
      WrittenAt s.stage.dHead (add32 (trace B wl wr s).sR (mul32 (trace B wl wr s).dR s.params.delayFeedback))
        s.stage.dr t.stage.dr ∧
      t.stage.dHead = (s.stage.dHead + 1) % (2 * s.cfg.fs)

/-- The comb bank in SMP and SMP.B: each comb's memory gets input + read × combFeedback at its head, every other element
stays, and its head advances modulo this step's effective length (R121 to R124, R126). -/
def Obligations.CombBankWritesAtTheHeads : Prop :=
  ∀ (B : Bool) (wl wr : Word) (s : State), s.stage.ok s.cfg = true →
    ∃ t, exec (sampleCommand B wl wr) s = .next t ∧
      WrittenAt s.stage.cHead.q0 (add32 (trace B wl wr s).m (mul32 (trace B wl wr s).v.q0 (trace B wl wr s).cf))
        s.stage.comb.q0 t.stage.comb.q0 ∧
      WrittenAt s.stage.cHead.q1 (add32 (trace B wl wr s).m (mul32 (trace B wl wr s).v.q1 (trace B wl wr s).cf))
        s.stage.comb.q1 t.stage.comb.q1 ∧
      WrittenAt s.stage.cHead.q2 (add32 (trace B wl wr s).m (mul32 (trace B wl wr s).v.q2 (trace B wl wr s).cf))
        s.stage.comb.q2 t.stage.comb.q2 ∧
      WrittenAt s.stage.cHead.q3 (add32 (trace B wl wr s).m (mul32 (trace B wl wr s).v.q3 (trace B wl wr s).cf))
        s.stage.comb.q3 t.stage.comb.q3 ∧
      ∀ c : Fin 4, t.stage.cHead.get c =
        (s.stage.cHead.get c + 1) % (ceilI (mul32 (toF32 (s.cfg.combLen.get c)) s.params.reverbSize)).toNat

/-- The allpass in SMP and SMP.B: its memory gets the pre-diffusion signal + read × gain at its head, every other
element stays, and its head advances modulo AP_LEN (R125, R127, R128). -/
def Obligations.AllpassWritesAtTheHead : Prop :=
  ∀ (B : Bool) (wl wr : Word) (s : State), s.stage.ok s.cfg = true →
    ∃ t, exec (sampleCommand B wl wr) s = .next t ∧
      WrittenAt s.stage.apHead (add32 (trace B wl wr s).pre (mul32 (trace B wl wr s).a s.cfg.apGain))
        s.stage.ap t.stage.ap ∧
      t.stage.apHead = (s.stage.apHead + 1) % s.cfg.apLen

/-- SMP and SMP.B stop, by name, exactly in the states with a head outside its memory, and are never refused. The spec
says such states do not occur (R45); the stop is the model's own (log entry 8). -/
def Obligations.SampleStopsOnlyOutOfRange : Prop :=
  ∀ (B : Bool) (wl wr : Word) (s : State),
    (∀ f, exec (sampleCommand B wl wr) s = .fault f ↔ f = .indexOutOfRange ∧ indicesInRange s.cfg s.stage = false) ∧
    ∀ r, exec (sampleCommand B wl wr) s ≠ .refused r

/-- What a sample step answers and leaves in the stages depends only on the configuration, the parameters and the stage
state: not on STATUS, the CTRL port, the parsers, the hosts or the responses still queued (R41, R91). -/
def Obligations.SampleDependsOnlyOnAudioState : Prop :=
  ∀ (B : Bool) (wl wr : Word) (s s' t t' : State), s'.cfg = s.cfg → s'.params = s.params → s'.stage = s.stage →
    exec (sampleCommand B wl wr) s = .next t → exec (sampleCommand B wl wr) s' = .next t' →
    t'.stage = t.stage ∧ ∃ o, t.smpl.resp = s.smpl.resp ++ o ∧ t'.smpl.resp = s'.smpl.resp ++ o

/-- A write of delayTime makes no difference to a following SMP: same stage state, same responses (R83, R161). -/
def Obligations.DelayTimeWaitsForABlockStart : Prop :=
  ∀ (v wl wr : Word) (s s' t t' : State), exec (.pwrDelayTime v) s = .next s' → exec (.smp wl wr) s = .next t →
    exec (.smp wl wr) s' = .next t' → t'.stage = t.stage ∧ t'.smpl = t.smpl

/-- With the parameters at their reset values and the counter at 0, the limiter's input equals the input sample in
value, lane by lane, while inputs, memory elements and the diffused reverb are finite (R97, with R107's and R130's
conditions, which R97 leaves unsaid; log entry 24). -/
def Obligations.ResetSettingsPassTheInput : Prop :=
  ∀ (B : Bool) (wl wr : Word) (s : State), s.params = Params.reset → s.stage.ctr = 0 → s.stage.finite = true →
    isFinite wl = true → isFinite wr = true → isFinite (trace B wl wr s).dif = true →
    isFinite (trace B wl wr s).yL = true ∧ value (trace B wl wr s).yL = value wl ∧
    isFinite (trace B wl wr s).yR = true ∧ value (trace B wl wr s).yR = value wr

/-- A delayed value that is not finite makes the element written at the head not finite, whatever delayFeedback is, and
with delayMix = +0 the stage's output the NaN 0x7FC00000 (R120). -/
def Obligations.NonFiniteDelayRecurs : Prop :=
  ∀ (B : Bool) (wl wr : Word) (s : State), s.stage.ok s.cfg = true →
    ∃ t, exec (sampleCommand B wl wr) s = .next t ∧
      (isFinite (trace B wl wr s).dL = false → isFinite (memRead t.stage.dl s.stage.dHead) = false ∧
        (s.params.delayMix = 0x00000000#32 → (trace B wl wr s).wL = 0x7FC00000#32)) ∧
      (isFinite (trace B wl wr s).dR = false → isFinite (memRead t.stage.dr s.stage.dHead) = false ∧
        (s.params.delayMix = 0x00000000#32 → (trace B wl wr s).wR = 0x7FC00000#32))

/-! ## Ranges -/

/-- The delay length is below DCAP for every allowed sample rate and delay time (R112). -/
def Obligations.DelayLengthIsBelowCapacity : Prop :=
  ∀ (c : Cfg) (P : Params), c.wf = true → P.ok = true → delayLength c.fs P.delayTime < 2 * c.fs

/-- The effective length of a comb is between 1 and its base length for every allowed length and size (R123). -/
def Obligations.CombLengthIsInRange : Prop :=
  ∀ (len : Nat) (size : Word), 1 ≤ len → len ≤ 65535 → inBounds size 0x3DCCCCCD#32 0x3F800000#32 = true →
    1 ≤ combLength len size ∧ combLength len size ≤ len

/-- The comb feedback coefficient is mul32(f32(0.84), reverbSize), between 0x3DAC0831 and 0x3F570A3D, and f32(0.84) at
size 1 (R122). -/
def Obligations.CombFeedbackIsInRange : Prop :=
  (∀ size : Word, combFeedback size = mul32 0x3F570A3D#32 size) ∧
  (∀ size : Word, inBounds size 0x3DCCCCCD#32 0x3F800000#32 = true →
    isFinite (combFeedback size) = true ∧ value 0x3DAC0831#32 ≤ value (combFeedback size) ∧
    value (combFeedback size) ≤ value 0x3F570A3D#32) ∧
  combFeedback 0x3F800000#32 = 0x3F570A3D#32

/-! ## Arithmetic -/

/-- The sum and difference of two finite words are the exact ones rounded to nearest, ties to even; an exact zero sum is
+0 but for (-0) + (-0), an exact zero difference +0 but for (-0) - (+0) (R11). -/
def Obligations.AddRoundsTheExactSum : Prop :=
  ∀ a b : Word, isFinite a = true → isFinite b = true →
    IsRounded (((value a + value b : ℚ)) : ℝ) (add32 a b) ∧ IsRounded (((value a - value b : ℚ)) : ℝ) (sub32 a b) ∧
    (value a + value b = 0 → add32 a b = if a = negZero ∧ b = negZero then negZero else posZero) ∧
    (value a - value b = 0 → sub32 a b = if a = negZero ∧ b = posZero then negZero else posZero)

/-- The product of two finite words is the exact one rounded to nearest, ties to even, with the exclusive-or of the
signs, a zero product too (R11). -/
def Obligations.MulRoundsTheExactProduct : Prop :=
  ∀ a b : Word, isFinite a = true → isFinite b = true →
    IsRounded (((value a * value b : ℚ)) : ℝ) (mul32 a b) ∧ signBit (mul32 a b) = (signBit a != signBit b)

/-- Infinite operands: an infinity and a finite word give the infinity, a finite word minus an infinity the opposite one;
opposite infinities give NaN in a sum, equal ones
in a difference; an infinity times zero is NaN, times any other number the infinity of the exact sign (R11). -/
def Obligations.InfiniteOperands : Prop :=
  ∀ a b : Word, isInf a = true →
    (isFinite b = true → add32 a b = a ∧ add32 b a = a ∧ sub32 a b = a ∧ sub32 b a = neg32 a) ∧
    (isInf b = true → add32 a b = (if signBit a = signBit b then a else qNaN) ∧
      sub32 a b = (if signBit a = signBit b then qNaN else a)) ∧
    (isZero b = true → mul32 a b = qNaN ∧ mul32 b a = qNaN) ∧
    (isNaN b = false → isZero b = false →
      mul32 a b = (if signBit a = signBit b then posInf else negInf) ∧ mul32 b a = mul32 a b)

/-- Every NaN result of add32, sub32, mul32 and tanhRN is 0x7FC00000, and a NaN operand gives it (R11, R12). -/
def Obligations.NaNResultsAreOneWord : Prop :=
  ∀ a b : Word,
    (isNaN (add32 a b) = true → add32 a b = 0x7FC00000#32) ∧ (isNaN (sub32 a b) = true → sub32 a b = 0x7FC00000#32) ∧
    (isNaN (mul32 a b) = true → mul32 a b = 0x7FC00000#32) ∧ (isNaN (tanhRN a) = true → tanhRN a = 0x7FC00000#32) ∧
    (isNaN a = true ∨ isNaN b = true → add32 a b = 0x7FC00000#32 ∧ sub32 a b = 0x7FC00000#32 ∧
      mul32 a b = 0x7FC00000#32)

/-- toF32 is exact below 2^24, and floorI and ceilI of a finite word are the floor and ceiling of its value (R16). -/
def Obligations.IntegerConversionsAreExact : Prop :=
  (∀ n : Nat, n < 2 ^ 24 → isFinite (toF32 n) = true ∧ value (toF32 n) = (n : ℚ)) ∧
  (∀ x : Word, isFinite x = true → floorI x = ⌊value x⌋ ∧ ceilI x = ⌈value x⌉)

/-- The constants of R14 are the binary32 words nearest to their decimals, ties to even. -/
def Obligations.ConstantsAreNearest : Prop :=
  IsRounded (84 / 100) combFactor ∧ IsRounded (7 / 10) Config.apGain ∧ IsRounded (95 / 100) delayFeedbackMax ∧
  IsRounded (1 / 100) delayTimeMin ∧ IsRounded (19 / 10) delayTimeMax ∧ IsRounded (1 / 10) reverbSizeMin ∧
  IsRounded (1 / 4) quarter32 ∧ IsRounded (1 / 2) half32 ∧ IsRounded 1 one32 ∧ posZero = 0x00000000#32 ∧
  combFactor = 0x3F570A3D#32 ∧ Config.apGain = 0x3F333333#32 ∧ delayFeedbackMax = 0x3F733333#32 ∧
  delayTimeMin = 0x3C23D70A#32 ∧ delayTimeMax = 0x3FF33333#32 ∧ reverbSizeMin = 0x3DCCCCCD#32 ∧
  quarter32 = 0x3E800000#32 ∧ half32 = 0x3F000000#32 ∧ one32 = 0x3F800000#32

/-- The quantizer in terms of values: the identity at 16 and on words that are not finite; else floor(y + 1/2) steps of
2^-(b-1), exactly, ties toward +infinity, and a zero result with the sign of x (R99, R100, R101). -/
def Obligations.QuantizerRoundsToTheStep : Prop :=
  (∀ x : Word, quantize x 16 = x) ∧
  (∀ (x : Word) (b : Nat), isFinite x = false → quantize x b = x) ∧
  (∀ (x : Word) (b : Nat), isFinite x = true → 1 ≤ b → b ≤ 15 →
    (⌊value x * 2 ^ (b - 1) + 1 / 2⌋ = 0 → quantize x b = if signBit x then 0x80000000#32 else 0x00000000#32) ∧
    (⌊value x * 2 ^ (b - 1) + 1 / 2⌋ ≠ 0 → isFinite (quantize x b) = true ∧
      value (quantize x b) = (⌊value x * 2 ^ (b - 1) + 1 / 2⌋ : ℚ) / 2 ^ (b - 1)))

/-- Wherever the two bounds of tanh that the model computes round to one word, tanhRN of a finite word is the hyperbolic
tangent of its value rounded to nearest, ties to even (R17). The premise is part of the statement; log entry 10 says what
is known of it. -/
def Obligations.TanhIsCorrectlyRoundedWhereResolved : Prop :=
  ∀ x : Word, isFinite x = true → tanhResolved x = true → IsRounded (Real.tanh ((value x : ℚ) : ℝ)) (tanhRN x)

/-- tanhRN is odd, maps zeros to themselves, infinities to ±1 and NaN to 0x7FC00000 (R17, R135). -/
def Obligations.TanhShape : Prop :=
  (∀ x : Word, isNaN x = false → tanhRN (x ^^^ 0x80000000#32) = tanhRN x ^^^ 0x80000000#32) ∧
  tanhRN posZero = posZero ∧ tanhRN negZero = negZero ∧ tanhRN posInf = 0x3F800000#32 ∧
  tanhRN negInf = 0xBF800000#32 ∧ (∀ x : Word, isNaN x = true → tanhRN x = 0x7FC00000#32)

/-- The output of a limiter whose input is not NaN stays within [-1, 1], and is 1 or -1 from 0x41102CB4 up in magnitude
(R134). -/
def Obligations.LimiterOutputIsBounded : Prop :=
  ∀ y : Word, isNaN y = false →
    isFinite (tanhRN y) = true ∧ -1 ≤ value (tanhRN y) ∧ value (tanhRN y) ≤ 1 ∧
    (0x41102CB4 ≤ magBits y → tanhRN y = if signBit y then 0xBF800000#32 else 0x3F800000#32)

/-- The reference values of R136. -/
def Obligations.TanhReferenceValues : Prop :=
  ∀ x ∈ [(0x3E000000#32, 0x3DFEACC9#32), (0x3E800000#32, 0x3E7ACBF5#32), (0x3F000000#32, 0x3EEC9A9F#32),
    (0xBF000000#32, 0xBEEC9A9F#32), (0x3F400000#32, 0x3F22991F#32), (0x3F800000#32, 0x3F42F7D6#32),
    (0xBE333333#32, 0xBE31648E#32), (0x40000000#32, 0x3F76CA83#32), (0x40400000#32, 0x3F7EBBE9#32),
    (0x41100000#32, 0x3F7FFFFF#32), (0x41200000#32, 0x3F800000#32)], tanhRN x.1 = x.2
end

