-- ==== Sys2Proof/Laws/Float.lean ====
section
/-! SUPPORT. The small lemmas of the binary32 operations: the fields of a packed word, the bound of a rounding, and the
special values. -/

namespace Sys2Proof.Machine

/-- A rounding never passes the bits of an infinity. -/
theorem roundMag_le (n d : Nat) : roundMag n d ≤ 0x7F800000 := Nat.min_le_right _ _

/-- The number of a packed word. -/
theorem packWord_toNat {neg : Bool} {mag : Nat} (h : mag < 2 ^ 31) :
    (packWord neg mag).toNat = mag + if neg then 2 ^ 31 else 0 := by
  unfold packWord
  rw [BitVec.toNat_ofNat]
  cases neg
  · rw [if_neg Bool.false_ne_true]; omega
  · rw [if_pos rfl]; omega

/-- The sign of a packed word. -/
theorem signBit_packWord {neg : Bool} {mag : Nat} (h : mag < 2 ^ 31) : signBit (packWord neg mag) = neg := by
  unfold signBit
  rw [packWord_toNat h]
  cases neg
  · simp; omega
  · simp

/-- The other bits of a packed word. -/
theorem magBits_packWord {neg : Bool} {mag : Nat} (h : mag < 2 ^ 31) : magBits (packWord neg mag) = mag := by
  unfold magBits
  rw [packWord_toNat h]
  cases neg <;> simp <;> omega

/-- A word is its sign and its other bits. -/
theorem packWord_fields (w : Word) : packWord (signBit w) (magBits w) = w := by
  apply BitVec.eq_of_toNat_eq
  have hw := w.isLt
  have hm : magBits w < 2 ^ 31 := Nat.mod_lt _ (by norm_num)
  rw [packWord_toNat hm]
  unfold signBit magBits
  by_cases h : 2 ^ 31 ≤ w.toNat
  · rw [decide_eq_true h, if_pos rfl]; omega
  · rw [decide_eq_false h, if_neg Bool.false_ne_true]; omega

@[simp] theorem isNaN_qNaN : isNaN qNaN = true := by decide
@[simp] theorem isInf_posInf : isInf posInf = true := by decide
@[simp] theorem isInf_negInf : isInf negInf = true := by decide
@[simp] theorem units_posZero : units posZero = 0 := by decide
@[simp] theorem units_negZero : units negZero = 0 := by decide

/-- A word is NaN, infinite or finite, and only one of them. -/
theorem word_kinds (w : Word) :
    (isNaN w = true ∧ isInf w = false ∧ isFinite w = false) ∨ (isNaN w = false ∧ isInf w = true ∧ isFinite w = false) ∨
    (isNaN w = false ∧ isInf w = false ∧ isFinite w = true) := by
  by_cases h : expField w = 255 <;> by_cases h2 : fracField w = 0 <;> simp [isNaN, isInf, isFinite, h, h2]

end Sys2Proof.Machine
end

