-- ==== Sys2Proof/Laws/Memory.lean ====
section
/-! SUPPORT. The buffer memories: a read after a write, and that a write keeps the canonical form and the size. -/

namespace Sys2Proof.Machine

@[simp] theorem memRead_nil (i : Nat) : memRead [] i = posZero := rfl

/-- Reading through one cell at the front. -/
theorem memRead_cons (j : Nat) (w : Word) (m : Memory) (i : Nat) :
    memRead ((j, w) :: m) i = if j = i then w else memRead m i := rfl

/-- A canonical memory stays so from a lower bound. -/
theorem Memory.wfFrom_mono {lo lo' : Nat} (h : lo' ≤ lo) : ∀ {m : Memory}, wfFrom lo m = true → wfFrom lo' m = true
  | [], _ => rfl
  | (i, w) :: rest, hm => by
    simp only [wfFrom, Bool.and_eq_true, decide_eq_true_eq] at hm ⊢
    exact ⟨⟨by omega, hm.1.2⟩, hm.2⟩

/-- A canonical memory lists nothing below its bound. -/
theorem memRead_below : ∀ {m : Memory} {lo i : Nat}, Memory.wfFrom lo m = true → i < lo → memRead m i = posZero
  | [], _, _, _, _ => rfl
  | (j, w) :: rest, lo, i, hm, hi => by
    simp only [Memory.wfFrom, Bool.and_eq_true, decide_eq_true_eq] at hm
    rw [memRead_cons, if_neg (by omega)]
    exact memRead_below hm.2 (by omega)

/-- Reading through a cell that is listed only if it is not +0. -/
theorem memRead_memCell {m : Memory} {i j : Nat} {v : Word} (hm : Memory.wfFrom (i + 1) m = true) :
    memRead (memCell i v m) j = if j = i then v else memRead m j := by
  unfold memCell
  by_cases hv : v = posZero
  · rw [if_pos hv]
    by_cases hj : j = i
    · rw [if_pos hj, hv]; exact memRead_below hm (by omega)
    · rw [if_neg hj]
  · rw [if_neg hv, memRead_cons]
    by_cases hj : j = i
    · rw [if_pos hj, if_pos hj.symm]
    · rw [if_neg hj, if_neg (Ne.symm hj)]

/-- A read after a write (R47): the word written at its index, the old word everywhere else. -/
theorem memRead_memWrite : ∀ {m : Memory} {lo : Nat} (i j : Nat) (v : Word), Memory.wfFrom lo m = true →
    memRead (memWrite m i v) j = if j = i then v else memRead m j
  | [], _, i, j, v, _ => memRead_memCell rfl
  | (k, w) :: rest, lo, i, j, v, hm => by
    simp only [Memory.wfFrom, Bool.and_eq_true, decide_eq_true_eq] at hm
    unfold memWrite
    by_cases h1 : i < k
    · rw [if_pos h1]
      exact memRead_memCell (by
        simp only [Memory.wfFrom, Bool.and_eq_true, decide_eq_true_eq]; exact ⟨⟨by omega, hm.1.2⟩, hm.2⟩)
    · rw [if_neg h1]
      by_cases h2 : i = k
      · subst h2
        rw [if_pos rfl, memRead_memCell hm.2, memRead_cons]
        by_cases hj : j = i
        · rw [if_pos hj, if_pos hj]
        · rw [if_neg hj, if_neg hj, if_neg (Ne.symm hj)]
      · rw [if_neg h2, memRead_cons, memRead_cons, memRead_memWrite i j v hm.2]
        by_cases hk : k = j
        · rw [if_pos hk, if_pos hk, if_neg (by omega)]
        · rw [if_neg hk, if_neg hk]

/-- A cell in front of a canonical memory. -/
theorem memCell_wfFrom {m : Memory} {lo i : Nat} {v : Word} (h : lo ≤ i) (hm : Memory.wfFrom (i + 1) m = true) :
    Memory.wfFrom lo (memCell i v m) = true := by
  unfold memCell
  by_cases hv : v = posZero
  · rw [if_pos hv]; exact Memory.wfFrom_mono (by omega) hm
  · rw [if_neg hv]
    simp only [Memory.wfFrom, Bool.and_eq_true, decide_eq_true_eq]
    exact ⟨⟨h, hv⟩, hm⟩

/-- A write keeps the canonical form above a bound. -/
theorem memWrite_wfFrom : ∀ {m : Memory} {lo i : Nat} {v : Word}, lo ≤ i → Memory.wfFrom lo m = true →
    Memory.wfFrom lo (memWrite m i v) = true
  | [], _, _, _, h, _ => memCell_wfFrom h rfl
  | (k, w) :: rest, lo, i, v, h, hm => by
    simp only [Memory.wfFrom, Bool.and_eq_true, decide_eq_true_eq] at hm
    unfold memWrite
    by_cases h1 : i < k
    · rw [if_pos h1]
      exact memCell_wfFrom h (by
        simp only [Memory.wfFrom, Bool.and_eq_true, decide_eq_true_eq]; exact ⟨⟨by omega, hm.1.2⟩, hm.2⟩)
    · rw [if_neg h1]
      by_cases h2 : i = k
      · subst h2
        rw [if_pos rfl]
        exact memCell_wfFrom h hm.2
      · rw [if_neg h2]
        simp only [Memory.wfFrom, Bool.and_eq_true, decide_eq_true_eq]
        exact ⟨hm.1, memWrite_wfFrom (by omega) hm.2⟩

/-- A write keeps the canonical form. -/
theorem memWrite_wf {m : Memory} (i : Nat) (v : Word) (hm : Memory.wf m = true) : Memory.wf (memWrite m i v) = true :=
  memWrite_wfFrom (Nat.zero_le i) hm

/-- A cell inside the size keeps a memory inside it. -/
theorem memCell_within {m : Memory} {n i : Nat} {v : Word} (h : i < n) (hm : Memory.within n m = true) :
    Memory.within n (memCell i v m) = true := by
  unfold memCell
  split
  · exact hm
  · simp only [Memory.within, List.all_cons, Bool.and_eq_true, decide_eq_true_eq] at hm ⊢
    exact ⟨h, hm⟩

/-- A write inside the size keeps a memory inside it. -/
theorem memWrite_within : ∀ {m : Memory} {n i : Nat} {v : Word}, i < n → Memory.within n m = true →
    Memory.within n (memWrite m i v) = true
  | [], _, _, _, h, hm => memCell_within h hm
  | (k, w) :: rest, n, i, v, h, hm => by
    have hm' := hm
    simp only [Memory.within, List.all_cons, Bool.and_eq_true, decide_eq_true_eq] at hm'
    unfold memWrite
    split
    · exact memCell_within h hm
    · split
      · exact memCell_within h hm'.2
      · have ih := memWrite_within (v := v) h (m := rest) hm'.2
        simp only [Memory.within, List.all_cons, Bool.and_eq_true, decide_eq_true_eq] at ih ⊢
        exact ⟨hm'.1, ih⟩

/-- A write inside the size keeps a memory in order. -/
theorem memWrite_memoryOk {m : Memory} {n i : Nat} (v : Word) (h : i < n) (hm : memoryOk n m = true) :
    memoryOk n (memWrite m i v) = true := by
  simp only [memoryOk, Bool.and_eq_true] at hm ⊢
  exact ⟨memWrite_wf i v hm.1, memWrite_within h hm.2⟩

/-- The memories of the reset state are in canonical form. -/
theorem reset_memories_wf (c : Cfg) :
    Memory.wf (Stage.reset c).dl = true ∧ Memory.wf (Stage.reset c).dr = true ∧
    Memory.wf (Stage.reset c).comb.q0 = true ∧ Memory.wf (Stage.reset c).comb.q1 = true ∧
    Memory.wf (Stage.reset c).comb.q2 = true ∧ Memory.wf (Stage.reset c).comb.q3 = true ∧
    Memory.wf (Stage.reset c).ap = true := ⟨rfl, rfl, rfl, rfl, rfl, rfl, rfl⟩

end Sys2Proof.Machine
end

