-- ==== Sys2Proof/Laws/State.lean ====
section
/-! SUPPORT. The state's record lemmas: one per field per update, so that no proof unfolds an update. -/

namespace Sys2Proof.Machine

@[simp] theorem State.setParams_cfg (s : State) (P : Params) : (s.setParams P).cfg = s.cfg := rfl
@[simp] theorem State.setParams_params (s : State) (P : Params) : (s.setParams P).params = P := rfl
@[simp] theorem State.setParams_status (s : State) (P : Params) : (s.setParams P).status = s.status := rfl
@[simp] theorem State.setParams_stage (s : State) (P : Params) : (s.setParams P).stage = s.stage := rfl
@[simp] theorem State.setParams_ctrl (s : State) (P : Params) : (s.setParams P).ctrl = s.ctrl := rfl
@[simp] theorem State.setParams_smpl (s : State) (P : Params) : (s.setParams P).smpl = s.smpl := rfl
@[simp] theorem State.setParams_ctrlHost (s : State) (P : Params) : (s.setParams P).ctrlHost = s.ctrlHost := rfl
@[simp] theorem State.setParams_smplHost (s : State) (P : Params) : (s.setParams P).smplHost = s.smplHost := rfl
@[simp] theorem State.setParams_sched (s : State) (P : Params) : (s.setParams P).sched = s.sched := rfl
@[simp] theorem State.setParams_faultsCtrl (s : State) (P : Params) : (s.setParams P).faultsCtrl = s.faultsCtrl := rfl
@[simp] theorem State.setParams_faultsSmpl (s : State) (P : Params) : (s.setParams P).faultsSmpl = s.faultsSmpl := rfl
@[simp] theorem State.setParams_port (s : State) (P : Params) (p : Port) : (s.setParams P).port p = s.port p := by cases p <;> rfl
@[simp] theorem State.setParams_host (s : State) (P : Params) (p : Port) : (s.setParams P).host p = s.host p := by cases p <;> rfl
@[simp] theorem State.setParams_faults (s : State) (P : Params) (p : Port) : (s.setParams P).faults p = s.faults p := by cases p <;> rfl

@[simp] theorem State.setStatus_cfg (s : State) (b : BitVec 2) : (s.setStatus b).cfg = s.cfg := rfl
@[simp] theorem State.setStatus_params (s : State) (b : BitVec 2) : (s.setStatus b).params = s.params := rfl
@[simp] theorem State.setStatus_status (s : State) (b : BitVec 2) : (s.setStatus b).status = b := rfl
@[simp] theorem State.setStatus_stage (s : State) (b : BitVec 2) : (s.setStatus b).stage = s.stage := rfl
@[simp] theorem State.setStatus_ctrl (s : State) (b : BitVec 2) : (s.setStatus b).ctrl = s.ctrl := rfl
@[simp] theorem State.setStatus_smpl (s : State) (b : BitVec 2) : (s.setStatus b).smpl = s.smpl := rfl
@[simp] theorem State.setStatus_ctrlHost (s : State) (b : BitVec 2) : (s.setStatus b).ctrlHost = s.ctrlHost := rfl
@[simp] theorem State.setStatus_smplHost (s : State) (b : BitVec 2) : (s.setStatus b).smplHost = s.smplHost := rfl
@[simp] theorem State.setStatus_sched (s : State) (b : BitVec 2) : (s.setStatus b).sched = s.sched := rfl
@[simp] theorem State.setStatus_faultsCtrl (s : State) (b : BitVec 2) : (s.setStatus b).faultsCtrl = s.faultsCtrl := rfl
@[simp] theorem State.setStatus_faultsSmpl (s : State) (b : BitVec 2) : (s.setStatus b).faultsSmpl = s.faultsSmpl := rfl
@[simp] theorem State.setStatus_port (s : State) (b : BitVec 2) (p : Port) : (s.setStatus b).port p = s.port p := by cases p <;> rfl
@[simp] theorem State.setStatus_host (s : State) (b : BitVec 2) (p : Port) : (s.setStatus b).host p = s.host p := by cases p <;> rfl
@[simp] theorem State.setStatus_faults (s : State) (b : BitVec 2) (p : Port) : (s.setStatus b).faults p = s.faults p := by cases p <;> rfl

@[simp] theorem State.setStage_cfg (s : State) (g : Stage) : (s.setStage g).cfg = s.cfg := rfl
@[simp] theorem State.setStage_params (s : State) (g : Stage) : (s.setStage g).params = s.params := rfl
@[simp] theorem State.setStage_status (s : State) (g : Stage) : (s.setStage g).status = s.status := rfl
@[simp] theorem State.setStage_stage (s : State) (g : Stage) : (s.setStage g).stage = g := rfl
@[simp] theorem State.setStage_ctrl (s : State) (g : Stage) : (s.setStage g).ctrl = s.ctrl := rfl
@[simp] theorem State.setStage_smpl (s : State) (g : Stage) : (s.setStage g).smpl = s.smpl := rfl
@[simp] theorem State.setStage_ctrlHost (s : State) (g : Stage) : (s.setStage g).ctrlHost = s.ctrlHost := rfl
@[simp] theorem State.setStage_smplHost (s : State) (g : Stage) : (s.setStage g).smplHost = s.smplHost := rfl
@[simp] theorem State.setStage_sched (s : State) (g : Stage) : (s.setStage g).sched = s.sched := rfl
@[simp] theorem State.setStage_faultsCtrl (s : State) (g : Stage) : (s.setStage g).faultsCtrl = s.faultsCtrl := rfl
@[simp] theorem State.setStage_faultsSmpl (s : State) (g : Stage) : (s.setStage g).faultsSmpl = s.faultsSmpl := rfl
@[simp] theorem State.setStage_port (s : State) (g : Stage) (p : Port) : (s.setStage g).port p = s.port p := by cases p <;> rfl
@[simp] theorem State.setStage_host (s : State) (g : Stage) (p : Port) : (s.setStage g).host p = s.host p := by cases p <;> rfl
@[simp] theorem State.setStage_faults (s : State) (g : Stage) (p : Port) : (s.setStage g).faults p = s.faults p := by cases p <;> rfl

@[simp] theorem State.setSched_cfg (s : State) (l : List Act) : (s.setSched l).cfg = s.cfg := rfl
@[simp] theorem State.setSched_params (s : State) (l : List Act) : (s.setSched l).params = s.params := rfl
@[simp] theorem State.setSched_status (s : State) (l : List Act) : (s.setSched l).status = s.status := rfl
@[simp] theorem State.setSched_stage (s : State) (l : List Act) : (s.setSched l).stage = s.stage := rfl
@[simp] theorem State.setSched_ctrl (s : State) (l : List Act) : (s.setSched l).ctrl = s.ctrl := rfl
@[simp] theorem State.setSched_smpl (s : State) (l : List Act) : (s.setSched l).smpl = s.smpl := rfl
@[simp] theorem State.setSched_ctrlHost (s : State) (l : List Act) : (s.setSched l).ctrlHost = s.ctrlHost := rfl
@[simp] theorem State.setSched_smplHost (s : State) (l : List Act) : (s.setSched l).smplHost = s.smplHost := rfl
@[simp] theorem State.setSched_sched (s : State) (l : List Act) : (s.setSched l).sched = l := rfl
@[simp] theorem State.setSched_faultsCtrl (s : State) (l : List Act) : (s.setSched l).faultsCtrl = s.faultsCtrl := rfl
@[simp] theorem State.setSched_faultsSmpl (s : State) (l : List Act) : (s.setSched l).faultsSmpl = s.faultsSmpl := rfl
@[simp] theorem State.setSched_port (s : State) (l : List Act) (p : Port) : (s.setSched l).port p = s.port p := by cases p <;> rfl
@[simp] theorem State.setSched_host (s : State) (l : List Act) (p : Port) : (s.setSched l).host p = s.host p := by cases p <;> rfl
@[simp] theorem State.setSched_faults (s : State) (l : List Act) (p : Port) : (s.setSched l).faults p = s.faults p := by cases p <;> rfl

@[simp] theorem State.setPort_cfg (s : State) (p : Port) (x : PortState) : (s.setPort p x).cfg = s.cfg := by cases p <;> rfl
@[simp] theorem State.setPort_params (s : State) (p : Port) (x : PortState) : (s.setPort p x).params = s.params := by cases p <;> rfl
@[simp] theorem State.setPort_status (s : State) (p : Port) (x : PortState) : (s.setPort p x).status = s.status := by cases p <;> rfl
@[simp] theorem State.setPort_stage (s : State) (p : Port) (x : PortState) : (s.setPort p x).stage = s.stage := by cases p <;> rfl
@[simp] theorem State.setPort_ctrl_ctrl (s : State) (x : PortState) : (s.setPort .ctrl x).ctrl = x := rfl
@[simp] theorem State.setPort_smpl_ctrl (s : State) (x : PortState) : (s.setPort .smpl x).ctrl = s.ctrl := rfl
@[simp] theorem State.setPort_ctrl_smpl (s : State) (x : PortState) : (s.setPort .ctrl x).smpl = s.smpl := rfl
@[simp] theorem State.setPort_smpl_smpl (s : State) (x : PortState) : (s.setPort .smpl x).smpl = x := rfl
@[simp] theorem State.setPort_ctrlHost (s : State) (p : Port) (x : PortState) : (s.setPort p x).ctrlHost = s.ctrlHost := by cases p <;> rfl
@[simp] theorem State.setPort_smplHost (s : State) (p : Port) (x : PortState) : (s.setPort p x).smplHost = s.smplHost := by cases p <;> rfl
@[simp] theorem State.setPort_sched (s : State) (p : Port) (x : PortState) : (s.setPort p x).sched = s.sched := by cases p <;> rfl
@[simp] theorem State.setPort_faultsCtrl (s : State) (p : Port) (x : PortState) : (s.setPort p x).faultsCtrl = s.faultsCtrl := by cases p <;> rfl
@[simp] theorem State.setPort_faultsSmpl (s : State) (p : Port) (x : PortState) : (s.setPort p x).faultsSmpl = s.faultsSmpl := by cases p <;> rfl
@[simp] theorem State.setPort_port_same (s : State) (p : Port) (x : PortState) : (s.setPort p x).port p = x := by cases p <;> rfl
theorem State.setPort_port_other (s : State) (p q : Port) (x : PortState) (h : q ≠ p) : (s.setPort p x).port q = s.port q := by
  cases p <;> cases q <;> first | rfl | exact absurd rfl h
@[simp] theorem State.setPort_host (s : State) (p q : Port) (x : PortState) : (s.setPort p x).host q = s.host q := by
  cases p <;> cases q <;> rfl
@[simp] theorem State.setPort_faults (s : State) (p q : Port) (x : PortState) : (s.setPort p x).faults q = s.faults q := by
  cases p <;> cases q <;> rfl
@[simp] theorem State.setPort_setPort (s : State) (p : Port) (x y : PortState) : (s.setPort p x).setPort p y = s.setPort p y := by cases p <;> rfl
@[simp] theorem State.setPort_self (s : State) (p : Port) : s.setPort p (s.port p) = s := by cases p <;> rfl

@[simp] theorem State.setHost_cfg (s : State) (p : Port) (x : HostState) : (s.setHost p x).cfg = s.cfg := by cases p <;> rfl
@[simp] theorem State.setHost_params (s : State) (p : Port) (x : HostState) : (s.setHost p x).params = s.params := by cases p <;> rfl
@[simp] theorem State.setHost_status (s : State) (p : Port) (x : HostState) : (s.setHost p x).status = s.status := by cases p <;> rfl
@[simp] theorem State.setHost_stage (s : State) (p : Port) (x : HostState) : (s.setHost p x).stage = s.stage := by cases p <;> rfl
@[simp] theorem State.setHost_ctrl (s : State) (p : Port) (x : HostState) : (s.setHost p x).ctrl = s.ctrl := by cases p <;> rfl
@[simp] theorem State.setHost_smpl (s : State) (p : Port) (x : HostState) : (s.setHost p x).smpl = s.smpl := by cases p <;> rfl
@[simp] theorem State.setHost_ctrl_ctrlHost (s : State) (x : HostState) : (s.setHost .ctrl x).ctrlHost = x := rfl
@[simp] theorem State.setHost_smpl_ctrlHost (s : State) (x : HostState) : (s.setHost .smpl x).ctrlHost = s.ctrlHost := rfl
@[simp] theorem State.setHost_ctrl_smplHost (s : State) (x : HostState) : (s.setHost .ctrl x).smplHost = s.smplHost := rfl
@[simp] theorem State.setHost_smpl_smplHost (s : State) (x : HostState) : (s.setHost .smpl x).smplHost = x := rfl
@[simp] theorem State.setHost_sched (s : State) (p : Port) (x : HostState) : (s.setHost p x).sched = s.sched := by cases p <;> rfl
@[simp] theorem State.setHost_faultsCtrl (s : State) (p : Port) (x : HostState) : (s.setHost p x).faultsCtrl = s.faultsCtrl := by cases p <;> rfl
@[simp] theorem State.setHost_faultsSmpl (s : State) (p : Port) (x : HostState) : (s.setHost p x).faultsSmpl = s.faultsSmpl := by cases p <;> rfl
@[simp] theorem State.setHost_port (s : State) (p q : Port) (x : HostState) : (s.setHost p x).port q = s.port q := by
  cases p <;> cases q <;> rfl
@[simp] theorem State.setHost_host_same (s : State) (p : Port) (x : HostState) : (s.setHost p x).host p = x := by cases p <;> rfl
theorem State.setHost_host_other (s : State) (p q : Port) (x : HostState) (h : q ≠ p) : (s.setHost p x).host q = s.host q := by
  cases p <;> cases q <;> first | rfl | exact absurd rfl h
@[simp] theorem State.setHost_faults (s : State) (p q : Port) (x : HostState) : (s.setHost p x).faults q = s.faults q := by
  cases p <;> cases q <;> rfl
@[simp] theorem State.setHost_setHost (s : State) (p : Port) (x y : HostState) : (s.setHost p x).setHost p y = s.setHost p y := by cases p <;> rfl
@[simp] theorem State.setHost_self (s : State) (p : Port) : s.setHost p (s.host p) = s := by cases p <;> rfl

@[simp] theorem State.setFaults_cfg (s : State) (p : Port) (x : Nat) : (s.setFaults p x).cfg = s.cfg := by cases p <;> rfl
@[simp] theorem State.setFaults_params (s : State) (p : Port) (x : Nat) : (s.setFaults p x).params = s.params := by cases p <;> rfl
@[simp] theorem State.setFaults_status (s : State) (p : Port) (x : Nat) : (s.setFaults p x).status = s.status := by cases p <;> rfl
@[simp] theorem State.setFaults_stage (s : State) (p : Port) (x : Nat) : (s.setFaults p x).stage = s.stage := by cases p <;> rfl
@[simp] theorem State.setFaults_ctrl (s : State) (p : Port) (x : Nat) : (s.setFaults p x).ctrl = s.ctrl := by cases p <;> rfl
@[simp] theorem State.setFaults_smpl (s : State) (p : Port) (x : Nat) : (s.setFaults p x).smpl = s.smpl := by cases p <;> rfl
@[simp] theorem State.setFaults_ctrlHost (s : State) (p : Port) (x : Nat) : (s.setFaults p x).ctrlHost = s.ctrlHost := by cases p <;> rfl
@[simp] theorem State.setFaults_smplHost (s : State) (p : Port) (x : Nat) : (s.setFaults p x).smplHost = s.smplHost := by cases p <;> rfl
@[simp] theorem State.setFaults_sched (s : State) (p : Port) (x : Nat) : (s.setFaults p x).sched = s.sched := by cases p <;> rfl
@[simp] theorem State.setFaults_ctrl_faultsCtrl (s : State) (x : Nat) : (s.setFaults .ctrl x).faultsCtrl = x := rfl
@[simp] theorem State.setFaults_smpl_faultsCtrl (s : State) (x : Nat) : (s.setFaults .smpl x).faultsCtrl = s.faultsCtrl := rfl
@[simp] theorem State.setFaults_ctrl_faultsSmpl (s : State) (x : Nat) : (s.setFaults .ctrl x).faultsSmpl = s.faultsSmpl := rfl
@[simp] theorem State.setFaults_smpl_faultsSmpl (s : State) (x : Nat) : (s.setFaults .smpl x).faultsSmpl = x := rfl
@[simp] theorem State.setFaults_port (s : State) (p q : Port) (x : Nat) : (s.setFaults p x).port q = s.port q := by
  cases p <;> cases q <;> rfl
@[simp] theorem State.setFaults_host (s : State) (p q : Port) (x : Nat) : (s.setFaults p x).host q = s.host q := by
  cases p <;> cases q <;> rfl
@[simp] theorem State.setFaults_faults_same (s : State) (p : Port) (x : Nat) : (s.setFaults p x).faults p = x := by cases p <;> rfl
theorem State.setFaults_faults_other (s : State) (p q : Port) (x : Nat) (h : q ≠ p) : (s.setFaults p x).faults q = s.faults q := by
  cases p <;> cases q <;> first | rfl | exact absurd rfl h
@[simp] theorem State.setFaults_setFaults (s : State) (p : Port) (x y : Nat) : (s.setFaults p x).setFaults p y = s.setFaults p y := by cases p <;> rfl
@[simp] theorem State.setFaults_self (s : State) (p : Port) : s.setFaults p (s.faults p) = s := by cases p <;> rfl

end Sys2Proof.Machine
end

