-- ==== Sys2Proof/Laws/Ops.lean ====
section
/-! SUPPORT. One lemma per shared operation that says everything it can do. -/

namespace Sys2Proof.Machine

/-- respond appends one word to one queue. -/
theorem respond_eq (p : Port) (w : Word) (s : State) :
    respond p w s = s.setPort p { s.port p with resp := (s.port p).resp ++ [w] } := rfl

/-- IllegalCommand sets one bit and counts one event. -/
theorem raiseIllegal_eq (p : Port) (s : State) :
    raiseIllegal p s = (s.setStatus (s.status ||| illegalBit p)).setFaults p (s.faults p + 1) := rfl

/-- Setting the bit of a port keeps every bit of STATUS that is set. -/
theorem status_and_setIllegalBit (p : Port) (b : BitVec 2) : b &&& (b ||| illegalBit p) = b := by
  revert b; cases p <;> decide

/-- A parameter write answers the state with those parameters. -/
theorem writeParams_eq (P : Params) (s : State) : writeParams P s = .next (s.setParams P) := rfl

/-- A read command answers the state with one more word on CTRL. -/
theorem answer_eq (w : Word) (s : State) :
    answer w s = .next (s.setPort .ctrl { s.ctrl with resp := s.ctrl.resp ++ [w] }) := rfl

/-- What a sample step answers where its indices are in range. -/
theorem sample_next (B : Bool) (wl wr : Word) (s : State) (h : indicesInRange s.cfg s.stage = true) :
    sample B wl wr s = .next ((s.setStage (sampleStep s.cfg s.params B ⟨wl, wr⟩ s.stage).2).setPort .smpl
      { s.smpl with resp := s.smpl.resp ++ [(sampleStep s.cfg s.params B ⟨wl, wr⟩ s.stage).1.l,
        (sampleStep s.cfg s.params B ⟨wl, wr⟩ s.stage).1.r] }) := by
  simp [sample, h, respond, State.setPort, State.port, State.setStage]

/-- What a sample step answers where an index is out of range. -/
theorem sample_fault (B : Bool) (wl wr : Word) (s : State) (h : indicesInRange s.cfg s.stage = false) :
    sample B wl wr s = .fault .indexOutOfRange := by
  simp [sample, h]

/-- If a sample step answers a next state, it is that of `sample_next`, and the indices were in range. -/
theorem sample_inv {B : Bool} {wl wr : Word} {s t : State} (h : sample B wl wr s = .next t) :
    indicesInRange s.cfg s.stage = true ∧
    t = (s.setStage (sampleStep s.cfg s.params B ⟨wl, wr⟩ s.stage).2).setPort .smpl
      { s.smpl with resp := s.smpl.resp ++ [(sampleStep s.cfg s.params B ⟨wl, wr⟩ s.stage).1.l,
        (sampleStep s.cfg s.params B ⟨wl, wr⟩ s.stage).1.r] } := by
  cases hr : indicesInRange s.cfg s.stage with
  | true => rw [sample_next B wl wr s hr] at h; exact ⟨rfl, by injection h with h; exact h.symm⟩
  | false => rw [sample_fault B wl wr s hr] at h; cases h

/-- A complete command runs, or waits. -/
theorem runOrWait_cases (p : Port) (i : Instr) (s : State) :
    (fits p i s = true ∧ runOrWait p i s = exec i s) ∨
    (fits p i s = false ∧ runOrWait p i s = .next (setWaiting p (some i) s)) := by
  cases h : fits p i s <;> simp [runOrWait, h]

/-- Everything serving a port can do: a waiting command runs or keeps waiting; else the next word, if there is one, is
taken. -/
theorem serve_cases (p : Port) (s : State) :
    (∃ i, (s.port p).waiting = some i ∧ fits p i s = true ∧ serve p s = exec i (setWaiting p none s)) ∨
    (∃ i, (s.port p).waiting = some i ∧ fits p i s = false ∧ serve p s = .next s) ∨
    ((s.port p).waiting = none ∧ (s.host p).toSend = [] ∧ serve p s = .next s) ∨
    (∃ w rest, (s.port p).waiting = none ∧ (s.host p).toSend = w :: rest ∧
      serve p s = takeWord p w (s.setHost p { s.host p with toSend := rest })) := by
  unfold serve
  cases hw : (s.port p).waiting with
  | some i => cases hf : fits p i s <;> simp [hf]
  | none => cases ht : (s.host p).toSend <;> simp

/-- A port is over when its parser is Idle, its queue empty and no command waits. -/
theorem portOver_iff (x : PortState) : portOver x = true ↔ x.parse = .idle ∧ x.resp = [] ∧ x.waiting = none := by
  simp [portOver, and_assoc]

/-- A port at reset is over. -/
@[simp] theorem portOver_reset : portOver PortState.reset = true := rfl

/-- Everything a removal can do: the head word goes to the host, or nothing changes. -/
theorem remove_cases (p : Port) (s : State) :
    ((s.port p).resp = [] ∧ remove p s = s) ∨
    (∃ w rest, (s.port p).resp = w :: rest ∧ remove p s = (s.setPort p { s.port p with resp := rest }).setHost p
      { s.host p with received := (s.host p).received ++ [w] }) := by
  unfold remove
  cases h : (s.port p).resp <;> simp

/-- Everything a step can do. -/
theorem step_cases (s : State) :
    (s.sched = [] ∧ step s = .next s) ∨
    (∃ p rest, s.sched = .serve p :: rest ∧ step s = serve p (s.setSched rest)) ∨
    (∃ p rest, s.sched = .remove p :: rest ∧ step s = .next (remove p (s.setSched rest))) ∨
    (∃ n m rest, s.sched = .reset n m :: rest ∧ step s = .next (applyReset n m (s.setSched rest))) := by
  unfold step
  cases hs : s.sched with
  | nil => simp
  | cons a rest => cases a <;> simp [act]

end Sys2Proof.Machine
end

