-- ==== Sys2Proof/Laws/PerInstr.lean ====
section
/-! SUPPORT. The framing of every command (30_encoding.md R66, R71): its words are one header word whose reserved bits
are 0, and as many operand words as the header's OP says. -/

namespace Sys2Proof.Laws.Framing

/-- The header's reserved bits are 0 and its OP gives the number of operand words. -/
def Statement (i : Instr) : Prop :=
  rsvField (header i) = 0 ∧ (operands i).length = nOperands (opField (header i)) ∧
  (encode i).length = 1 + nOperands (opField (header i))

theorem nop : Statement .nop := by simp [Statement, header, operands, encode, nOperands, opField, rsvField, field]
theorem pwrBitDepth (v : Word) : Statement (.pwrBitDepth v) := by simp [Statement, header, operands, encode, nOperands, opField, rsvField, field]
theorem pwrSampleRateDiv (v : Word) : Statement (.pwrSampleRateDiv v) := by simp [Statement, header, operands, encode, nOperands, opField, rsvField, field]
theorem pwrDelayTime (v : Word) : Statement (.pwrDelayTime v) := by simp [Statement, header, operands, encode, nOperands, opField, rsvField, field]
theorem pwrDelayFeedback (v : Word) : Statement (.pwrDelayFeedback v) := by simp [Statement, header, operands, encode, nOperands, opField, rsvField, field]
theorem pwrDelayMix (v : Word) : Statement (.pwrDelayMix v) := by simp [Statement, header, operands, encode, nOperands, opField, rsvField, field]
theorem pwrReverbMix (v : Word) : Statement (.pwrReverbMix v) := by simp [Statement, header, operands, encode, nOperands, opField, rsvField, field]
theorem pwrReverbSize (v : Word) : Statement (.pwrReverbSize v) := by simp [Statement, header, operands, encode, nOperands, opField, rsvField, field]
theorem prdBitDepth : Statement .prdBitDepth := by simp [Statement, header, operands, encode, nOperands, opField, rsvField, field]
theorem prdSampleRateDiv : Statement .prdSampleRateDiv := by simp [Statement, header, operands, encode, nOperands, opField, rsvField, field]
theorem prdDelayTime : Statement .prdDelayTime := by simp [Statement, header, operands, encode, nOperands, opField, rsvField, field]
theorem prdDelayFeedback : Statement .prdDelayFeedback := by simp [Statement, header, operands, encode, nOperands, opField, rsvField, field]
theorem prdDelayMix : Statement .prdDelayMix := by simp [Statement, header, operands, encode, nOperands, opField, rsvField, field]
theorem prdReverbMix : Statement .prdReverbMix := by simp [Statement, header, operands, encode, nOperands, opField, rsvField, field]
theorem prdReverbSize : Statement .prdReverbSize := by simp [Statement, header, operands, encode, nOperands, opField, rsvField, field]
theorem cfgrdFs : Statement .cfgrdFs := by simp [Statement, header, operands, encode, nOperands, opField, rsvField, field]
theorem cfgrdDcap : Statement .cfgrdDcap := by simp [Statement, header, operands, encode, nOperands, opField, rsvField, field]
theorem cfgrdCombLen0 : Statement .cfgrdCombLen0 := by simp [Statement, header, operands, encode, nOperands, opField, rsvField, field]
theorem cfgrdCombLen1 : Statement .cfgrdCombLen1 := by simp [Statement, header, operands, encode, nOperands, opField, rsvField, field]
theorem cfgrdCombLen2 : Statement .cfgrdCombLen2 := by simp [Statement, header, operands, encode, nOperands, opField, rsvField, field]
theorem cfgrdCombLen3 : Statement .cfgrdCombLen3 := by simp [Statement, header, operands, encode, nOperands, opField, rsvField, field]
theorem cfgrdApLen : Statement .cfgrdApLen := by simp [Statement, header, operands, encode, nOperands, opField, rsvField, field]
theorem cfgrdApGain : Statement .cfgrdApGain := by simp [Statement, header, operands, encode, nOperands, opField, rsvField, field]
theorem cfgrdStatus : Statement .cfgrdStatus := by simp [Statement, header, operands, encode, nOperands, opField, rsvField, field]
theorem smp (wl wr : Word) : Statement (.smp wl wr) := by simp [Statement, header, operands, encode, nOperands, opField, rsvField, field]
theorem smpB (wl wr : Word) : Statement (.smpB wl wr) := by simp [Statement, header, operands, encode, nOperands, opField, rsvField, field]

end Sys2Proof.Laws.Framing
end

