-- ==== Sys2Proof/Tests/Slice0.lean ====
section
/-! SUPPORT. Tests: well-formedness, decoding, one or two steps per command with results taken from
95_test_vectors.md, and a witness for the hypotheses of every statement. -/

namespace Sys2Proof.Tests

open Sys2Proof.Machine

/-! ## Helpers -/

/-- The machine at reset with 1000 samples a second and room for two responses. -/
def small : State := State.resetWith (Cfg.standard 1000 2)

/-- The machine at reset with 48000 samples a second. -/
def full : State := State.resetWith (Cfg.standard 48000 2)

/-- `s` with words to send on port `p` and one turn for it. -/
def sending (p : Port) (ws : List Word) (s : State) : State :=
  (s.setHost p { toSend := ws, received := [] }).setSched [.serve p]

/-- `s` with a parser state. -/
def parsing (p : Port) (x : Parse) (s : State) : State := setParse p x s

/-- `s` with a full response queue on port `p` (two words). -/
def crowded (p : Port) (s : State) : State := s.setPort p { s.port p with resp := [1#32, 2#32] }

/-- A stage in the middle of a run: heads moved, some elements written. -/
def worked : Stage :=
  { small.stage with
    dHead := 3, ctr := 0, cHead := ⟨5, 5, 5, 5⟩, apHead := 5, heldL := 0x3F000000#32
    dl := [(0, 0x3F000000#32), (753, 0x3F800000#32)], dr := [(1, 0xBF000000#32)]
    comb := ⟨[(5, 0x3F000000#32)], [], [], [(7, 0x3E000000#32)]⟩, ap := [(5, 0x3E800000#32)] }

/-- `small` with that stage. -/
def busy : State := small.setStage worked

/-- `busy` with a NaN in the element the next sample step reads from DL. -/
def poisoned : State :=
  busy.setStage { worked with dl := [(1753, 0x7FC00000#32)], dr := [(1753, 0x7F800000#32)] }

/-- A state no run reaches: the delay head is outside its memory. -/
def astray : State := small.setStage { small.stage with dHead := 2000 }

/-- The next state of an outcome satisfies a test. -/
def after (o : Host.Outcome State Fault Refusal) (test : State → Bool) : Bool :=
  match o with
  | .next t => test t
  | _ => false

/-- A command answers a next state with these words at the tail of a queue that was empty. -/
def answers (i : Instr) (s : State) (p : Port) (ws : List Word) : Bool :=
  after (exec i s) fun t => decide ((t.port p).resp = ws)

/-! ## Well-formedness (R6, R8, R54, R59): each check refuses an ill-formed term -/

theorem test_wf_smp_not_on_ctrl : Instr.wellFormed .ctrl (.smp 0#32 0#32) = false := by decide
theorem test_wf_pwr_not_on_smpl : Instr.wellFormed .smpl (.pwrDelayMix 0#32) = false := by decide
theorem test_wf_nop_on_both : Instr.wellFormed .ctrl .nop = true ∧ Instr.wellFormed .smpl .nop = true := by decide
theorem test_wf_cfg_standard : (Cfg.standard 48000 2).wf = true := by decide
theorem test_wf_cfg_no_rate : (Cfg.standard 0 2).wf = false := by decide
theorem test_wf_cfg_rate_too_high : (Cfg.standard 4194305 2).wf = false := by decide
theorem test_wf_cfg_queue_too_small : (Cfg.standard 48000 1).wf = false := by decide
theorem test_wf_cfg_comb_lengths :
    ({ Cfg.standard 48000 2 with combLen := ⟨0, 1, 1, 1⟩ } : Cfg).wf = false ∧
    ({ Cfg.standard 48000 2 with combLen := ⟨1, 65536, 1, 1⟩ } : Cfg).wf = false ∧
    ({ Cfg.standard 48000 2 with combLen := ⟨1, 1, 0, 1⟩ } : Cfg).wf = false ∧
    ({ Cfg.standard 48000 2 with combLen := ⟨1, 1, 1, 0⟩ } : Cfg).wf = false := by decide
theorem test_wf_cfg_allpass :
    ({ Cfg.standard 48000 2 with apLen := 0 } : Cfg).wf = false ∧
    ({ Cfg.standard 48000 2 with apGain := 0x3F800000#32 } : Cfg).wf = false ∧
    ({ Cfg.standard 48000 2 with apGain := 0xBF000000#32 } : Cfg).wf = false ∧
    ({ Cfg.standard 48000 2 with apGain := 0x7FC00000#32 } : Cfg).wf = false := by decide

/-! ## Decoding: words written out field by field, OP (8 bits), RSV (20 bits), IDX (4 bits) (R66, R68) -/

theorem test_decode_nop : decode .ctrl [0x00#8 ++ 0#20 ++ 0#4] = .ok (.nop, []) ∧
    decode .smpl [0x00#8 ++ 0#20 ++ 0#4] = .ok (.nop, []) := by decide
theorem test_decode_pwr :
    decode .ctrl [0x01#8 ++ 0#20 ++ 0#4, 8#32] = .ok (.pwrBitDepth 8#32, []) ∧
    decode .ctrl [0x01#8 ++ 0#20 ++ 1#4, 4#32] = .ok (.pwrSampleRateDiv 4#32, []) ∧
    decode .ctrl [0x01#8 ++ 0#20 ++ 2#4, 7#32] = .ok (.pwrDelayTime 7#32, []) ∧
    decode .ctrl [0x01#8 ++ 0#20 ++ 3#4, 7#32] = .ok (.pwrDelayFeedback 7#32, []) ∧
    decode .ctrl [0x01#8 ++ 0#20 ++ 4#4, 7#32] = .ok (.pwrDelayMix 7#32, []) ∧
    decode .ctrl [0x01#8 ++ 0#20 ++ 5#4, 7#32] = .ok (.pwrReverbMix 7#32, []) ∧
    decode .ctrl [0x01#8 ++ 0#20 ++ 6#4, 7#32] = .ok (.pwrReverbSize 7#32, []) := by decide
theorem test_decode_prd :
    decode .ctrl [0x02#8 ++ 0#20 ++ 0#4] = .ok (.prdBitDepth, []) ∧
    decode .ctrl [0x02#8 ++ 0#20 ++ 1#4] = .ok (.prdSampleRateDiv, []) ∧
    decode .ctrl [0x02#8 ++ 0#20 ++ 2#4] = .ok (.prdDelayTime, []) ∧
    decode .ctrl [0x02#8 ++ 0#20 ++ 3#4] = .ok (.prdDelayFeedback, []) ∧
    decode .ctrl [0x02#8 ++ 0#20 ++ 4#4] = .ok (.prdDelayMix, []) ∧
    decode .ctrl [0x02#8 ++ 0#20 ++ 5#4] = .ok (.prdReverbMix, []) ∧
    decode .ctrl [0x02#8 ++ 0#20 ++ 6#4] = .ok (.prdReverbSize, []) := by decide
theorem test_decode_cfgrd :
    decode .ctrl [0x03#8 ++ 0#20 ++ 0#4] = .ok (.cfgrdFs, []) ∧
    decode .ctrl [0x03#8 ++ 0#20 ++ 1#4] = .ok (.cfgrdDcap, []) ∧
    decode .ctrl [0x03#8 ++ 0#20 ++ 2#4] = .ok (.cfgrdCombLen0, []) ∧
    decode .ctrl [0x03#8 ++ 0#20 ++ 3#4] = .ok (.cfgrdCombLen1, []) ∧
    decode .ctrl [0x03#8 ++ 0#20 ++ 4#4] = .ok (.cfgrdCombLen2, []) ∧
    decode .ctrl [0x03#8 ++ 0#20 ++ 5#4] = .ok (.cfgrdCombLen3, []) ∧
    decode .ctrl [0x03#8 ++ 0#20 ++ 6#4] = .ok (.cfgrdApLen, []) ∧
    decode .ctrl [0x03#8 ++ 0#20 ++ 7#4] = .ok (.cfgrdApGain, []) ∧
    decode .ctrl [0x03#8 ++ 0#20 ++ 8#4] = .ok (.cfgrdStatus, []) := by decide
theorem test_decode_smp :
    decode .smpl [0x10#8 ++ 0#20 ++ 0#4, 1#32, 2#32, 3#32] = .ok (.smp 1#32 2#32, [3#32]) ∧
    decode .smpl [0x10#8 ++ 0#20 ++ 1#4, 1#32, 2#32] = .ok (.smpB 1#32 2#32, []) := by decide

/-- V-ENC-3 to V-ENC-20: the illegal headers. -/
theorem test_illegal_headers :
    ([0x00000001#32, 0x00000010#32, 0x01000007#32, 0x0100000F#32, 0x01100000#32, 0x02000007#32, 0x03000009#32,
      0x10000000#32, 0x04000000#32, 0xFF000000#32].all fun h => !legal .ctrl h) = true ∧
    ([0x10000002#32, 0x10000010#32, 0x01000000#32, 0x02000000#32, 0x03000000#32, 0x11000000#32].all fun h =>
      !legal .smpl h) = true := by decide
/-- V-ENC-1, 2, 9, 14. -/
theorem test_legal_headers : legal .ctrl 0x00000000#32 = true ∧ legal .smpl 0x00000000#32 = true ∧
    legal .ctrl 0x03000008#32 = true ∧ legal .smpl 0x10000001#32 = true := by decide
theorem test_decode_incomplete : decode .smpl [0x10000000#32, 1#32] = .error (.incomplete 0x10000000#32) := by decide
/-- R49: the bridge's bytes of SMP.B 1, 0. -/
theorem test_bridge_bytes : decodeBytes .smpl [0x01#8, 0#8, 0#8, 0x10#8, 0#8, 0#8, 0x80#8, 0x3F#8, 0#8, 0#8, 0#8, 0#8] =
    .ok (.smpB 0x3F800000#32 0#32, []) := by decide
theorem test_decode_table_words : decodeTableWord 32 0x01000003 = some (.pwrDelayFeedback 0#32) ∧
    decodeTableWord 32 0x10000001 = some (.smpB 0#32 0#32) ∧ decodeTableWord 32 0x04000000 = none := by decide
/-- R75: what the assembler accepts and refuses. -/
theorem test_assembler :
    assembleLine "  PWR 3, -0 ; smallest".toList = .command (.pwrDelayFeedback 0x80000000#32) ∧
    assembleLine "PWR bitDepth, 0.5".toList = .refused ∧ assembleLine "PRD volume".toList = .refused ∧
    assembleLine "SMP nan, 0x7F".toList = .command (.smp 0x7FC00000#32 0x7F#32) ∧
    assembleLine "; only a comment".toList = .blank := by decide +kernel
/-- R75, S10: two labelled streams, and the first refused line. -/
theorem test_program :
    (match assembleProgram none (["CTRL:", "PWR 0, 8 ; bits", "SMPL:", "", "SMP 1, 0"].map String.toList) with
      | .ok x => decide (x = ([0x01000000#32, 8#32], [0x10000000#32, 0x3F800000#32, 0#32]))
      | .error _ => false) = true ∧
    (match assembleProgram none (["CTRL:", "PRD volume"].map String.toList) with
      | .ok _ => false
      | .error e => decide (e = "PRD volume".toList)) = true := by decide +kernel

/-! ## Steps: control commands (95_test_vectors.md 2.2 to 2.5) -/

/-- V-NOP-1, V-NOP-2. -/
theorem test_nop : exec .nop busy = .next busy := rfl
/-- V-PWR-1 to V-PWR-8. -/
theorem test_pwr_bitDepth : ([(0x0#32, 1), (0x1#32, 1), (0x8#32, 8), (0xF#32, 15), (0x10#32, 16), (0x11#32, 16),
    (0xFFFFFFFF#32, 16), (0x41000000#32, 16)].all fun x =>
    after (exec (.pwrBitDepth x.1) small) fun t => decide (t.params.bitDepth = x.2)) = true := by decide +kernel
/-- V-PWR-9 to V-PWR-12. -/
theorem test_pwr_sampleRateDiv : ([(0x0#32, 1), (0x4#32, 4), (0x64#32, 16), (0x41800000#32, 16)].all fun x =>
    after (exec (.pwrSampleRateDiv x.1) small) fun t => decide (t.params.sampleRateDiv = x.2)) = true := by
  decide +kernel
/-- V-PWR-13 to V-PWR-23. -/
theorem test_pwr_delayTime : ([(0x3E99999A#32, 0x3E99999A#32), (0x40A00000#32, 0x3FF33333#32),
    (0x3BA3D70A#32, 0x3C23D70A#32), (0x3C23D709#32, 0x3C23D70A#32), (0x3FF33334#32, 0x3FF33333#32),
    (0xBF800000#32, 0x3C23D70A#32), (0x80000000#32, 0x3C23D70A#32), (0x00000000#32, 0x3C23D70A#32),
    (0x7FC00000#32, 0x3C23D70A#32), (0x7F800000#32, 0x3FF33333#32), (0xFF800000#32, 0x3C23D70A#32)].all fun x =>
    after (exec (.pwrDelayTime x.1) small) fun t => decide (t.params.delayTime = x.2)) = true := by decide +kernel
/-- V-PWR-24 to V-PWR-32. -/
theorem test_pwr_delayFeedback : ([(0x3F000000#32, 0x3F000000#32), (0x3F800000#32, 0x3F733333#32),
    (0x3F733333#32, 0x3F733333#32), (0x3F733334#32, 0x3F733333#32), (0x80000000#32, 0x00000000#32),
    (0xBDCCCCCD#32, 0x00000000#32), (0x7FC00000#32, 0x00000000#32), (0x7F800000#32, 0x3F733333#32),
    (0x00000001#32, 0x00000001#32)].all fun x =>
    after (exec (.pwrDelayFeedback x.1) small) fun t => decide (t.params.delayFeedback = x.2)) = true := by
  decide +kernel
/-- V-PWR-33 to V-PWR-38. -/
theorem test_pwr_delayMix : ([(0x40000000#32, 0x3F800000#32), (0x80000000#32, 0x00000000#32),
    (0x7FC00000#32, 0x00000000#32), (0x3F000000#32, 0x3F000000#32), (0x7F800000#32, 0x3F800000#32),
    (0xFF800000#32, 0x00000000#32)].all fun x =>
    after (exec (.pwrDelayMix x.1) small) fun t => decide (t.params.delayMix = x.2)) = true := by decide +kernel
/-- V-PWR-39 to V-PWR-41. -/
theorem test_pwr_reverbMix : ([(0xC0400000#32, 0x00000000#32), (0x3E800000#32, 0x3E800000#32),
    (0x3F800001#32, 0x3F800000#32)].all fun x =>
    after (exec (.pwrReverbMix x.1) small) fun t => decide (t.params.reverbMix = x.2)) = true := by decide +kernel
/-- V-PWR-42 to V-PWR-48. -/
theorem test_pwr_reverbSize : ([(0x3D4CCCCD#32, 0x3DCCCCCD#32), (0x3DCCCCCD#32, 0x3DCCCCCD#32),
    (0x3DCCCCCC#32, 0x3DCCCCCD#32), (0x40000000#32, 0x3F800000#32), (0x7FC00000#32, 0x3DCCCCCD#32),
    (0xFF800000#32, 0x3DCCCCCD#32), (0x3E99999A#32, 0x3E99999A#32)].all fun x =>
    after (exec (.pwrReverbSize x.1) small) fun t => decide (t.params.reverbSize = x.2)) = true := by decide +kernel
/-- V-PWR-49: a write changes no stage state. -/
theorem test_pwr_keeps_stage :
    after (exec (.pwrReverbSize 0x3DCCCCCD#32) busy) (fun t => decide (t.stage = worked)) = true := by decide +kernel
/-- V-PRD-1. -/
theorem test_prd_after_reset : ([(Instr.prdBitDepth, 0x10#32), (.prdSampleRateDiv, 1#32), (.prdDelayTime, 0x3E800000#32),
    (.prdDelayFeedback, 0#32), (.prdDelayMix, 0#32), (.prdReverbMix, 0#32), (.prdReverbSize, 0x3F000000#32)].all fun x =>
    answers x.1 small .ctrl [x.2]) = true := by decide +kernel
/-- V-CFG-1. -/
theorem test_cfgrd_after_reset : ([(Instr.cfgrdFs, 0xBB80#32), (.cfgrdDcap, 0x17700#32), (.cfgrdCombLen0, 0x45C#32),
    (.cfgrdCombLen1, 0x4A4#32), (.cfgrdCombLen2, 0x4FD#32), (.cfgrdCombLen3, 0x54C#32), (.cfgrdApLen, 0x22C#32),
    (.cfgrdApGain, 0x3F333333#32), (.cfgrdStatus, 0#32)].all fun x => answers x.1 full .ctrl [x.2]) = true := by
  decide +kernel
/-- V-CFG-3. -/
theorem test_cfgrd_status_both :
    answers .cfgrdStatus (raiseIllegal .smpl (raiseIllegal .ctrl full)) .ctrl [3#32] = true := by decide +kernel

/-! ## Steps: samples (95_test_vectors.md 2.6 to 2.11) -/

/-- V-SMP-1. -/
theorem test_smp_after_reset :
    answers (.smp 0x3F000000#32 0xBF000000#32) full .smpl [0x3EEC9A9F#32, 0xBEEC9A9F#32] = true := by decide +kernel
/-- V-SMP-2 with SMP.B, and the latch of 2.8 for 48000 samples a second. -/
theorem test_smpB_after_reset :
    answers (.smpB 0x3F800000#32 0xBF800000#32) full .smpl [0x3F42F7D6#32, 0xBF42F7D6#32] = true ∧
    after (exec (.smpB 0#32 0#32) full) (fun t => decide (t.stage.latch = 12000)) = true := by decide +kernel
/-- V-DLY-6. -/
theorem test_smp_minus_zero :
    answers (.smp 0x80000000#32 0x80000000#32) small .smpl [0#32, 0#32] = true := by decide +kernel
/-- V-REV-3's last step: heads at 200 fold to the effective lengths of reverbSize 0.1. -/
theorem test_smpB_folds_heads :
    after (exec (.smpB 0#32 0#32) ((small.setParams { small.params with reverbSize := 0x3DCCCCCD#32 }).setStage
      { small.stage with cHead := ⟨200, 200, 200, 200⟩ })) (fun t => decide (t.stage.cHead = ⟨89, 82, 73, 65⟩)) = true := by
  decide +kernel

/-! ## Functions (R14, R104, R112, R123, R136, V-LIM) -/

/-- R104. -/
theorem test_quantize : ([(0x3E99999A#32, 16, 0x3E99999A#32), (0x3E99999A#32, 8, 0x3E980000#32),
    (0x3E99999A#32, 1, 0x00000000#32), (0x3F000000#32, 1, 0x3F800000#32), (0xBF000000#32, 1, 0x80000000#32),
    (0xBF028F5C#32, 1, 0xBF800000#32), (0x3E800000#32, 2, 0x3F000000#32), (0xBE800000#32, 2, 0x80000000#32),
    (0x3F400000#32, 2, 0x3F800000#32), (0xBF400000#32, 2, 0xBF000000#32), (0x3FD9999A#32, 3, 0x3FE00000#32),
    (0x3F7FBE77#32, 4, 0x3F800000#32), (0x47C35000#32, 15, 0x47C35000#32), (0x7F61B1E6#32, 15, 0x7F61B1E6#32),
    (0x000116C2#32, 15, 0x00000000#32), (0x800116C2#32, 15, 0x80000000#32), (0x80000000#32, 8, 0x80000000#32),
    (0x7F800000#32, 4, 0x7F800000#32), (0x7FC00001#32, 4, 0x7FC00001#32)].all fun x =>
    decide (quantize x.1 x.2.1 = x.2.2)) = true := by decide +kernel
/-- R112's latch values and R123's effective lengths. -/
theorem test_lengths : delayLength 44100 0x3FF33333#32 = 83790 ∧ delayLength 50 0x3C23D70A#32 = 0 ∧
    delayLength 99 0x3C23D70A#32 = 0 ∧ delayLength 100 0x3C23D70A#32 = 1 ∧
    delayLength 1 0x3FF33333#32 = 1 ∧ combLength 1116 0x3DCCCCCD#32 = 112 ∧ combLength 1277 0x3F000000#32 = 639 ∧
    combLength 1356 0x3F800000#32 = 1356 := by decide +kernel
/-- V-LIM-1 to V-LIM-13. -/
theorem test_tanh : ([(0x41102CB4#32, 0x3F800000#32), (0x41102CB3#32, 0x3F7FFFFF#32), (0xC1102CB4#32, 0xBF800000#32),
    (0x7F800000#32, 0x3F800000#32), (0xFF800000#32, 0xBF800000#32), (0x80000000#32, 0x80000000#32),
    (0x00000001#32, 0x00000001#32), (0x39800000#32, 0x39800000#32), (0x10000001#32, 0x10000001#32),
    (0x3F000001#32, 0x3EEC9AA0#32), (0x3D333333#32, 0x3D3315F4#32), (0x41800000#32, 0x3F800000#32),
    (0x7FC00000#32, 0x7FC00000#32)].all fun x => decide (tanhRN x.1 = x.2)) = true := by decide +kernel
/-- R14: the decimals of the constants. -/
theorem test_f32_constants : f32 false 84 100 = 0x3F570A3D#32 ∧ f32 false 7 10 = 0x3F333333#32 ∧
    f32 false 95 100 = 0x3F733333#32 ∧ f32 false 1 100 = 0x3C23D70A#32 ∧ f32 false 19 10 = 0x3FF33333#32 ∧
    f32 false 1 10 = 0x3DCCCCCD#32 := by decide +kernel
/-- R11: overflow, subnormals, signed zeros and NaN. -/
theorem test_arithmetic : add32 0x7F7FFFFF#32 0x7F7FFFFF#32 = 0x7F800000#32 ∧ add32 0x00000001#32 0x00000001#32 = 2#32 ∧
    add32 0x3F800000#32 0xBF800000#32 = 0#32 ∧ add32 negZero negZero = negZero ∧ add32 posInf negInf = qNaN ∧
    mul32 0x00000001#32 0x3F000000#32 = 0#32 ∧ mul32 0x80000000#32 0x3F800000#32 = negZero ∧ mul32 posZero negInf = qNaN ∧
    mul32 0x3DCCCCCD#32 0x3F570A3D#32 = 0x3DAC0831#32 := by decide +kernel

/-! ## Steps: ports, illegal headers, reset (95_test_vectors.md 2.12, P4) -/

/-- V-ILL-1. -/
theorem test_illegal_on_ctrl : after (step (sending .ctrl [0x04000000#32] busy)) (fun t =>
    decide (t.status = 1#2) && decide (t.ctrl = busy.ctrl) && decide (t.stage = worked) && decide (t.faultsCtrl = 1)) =
    true := by decide +kernel
/-- V-ILL-2. -/
theorem test_illegal_on_smpl : after (step (sending .smpl [0x02000000#32] small)) (fun t => decide (t.status = 2#2)) =
    true := by decide +kernel
/-- V-ENC-22. -/
theorem test_partial_command : after (step (sending .ctrl [0x01000000#32] small)) (fun t =>
    decide (t.ctrl.parse = .collecting 0x01000000#32 []) && decide (t.params = small.params)) = true := by decide +kernel
/-- P4's end: the next CTRL word is the operand of a PWR, whatever it is (R165). -/
theorem test_operand_is_no_header : after (step (sending .ctrl [0x03000008#32]
    (parsing .ctrl (.collecting 0x01000000#32 []) small))) (fun t =>
    decide (t.params.bitDepth = 16) && decide (t.ctrl = PortState.reset)) = true := by decide +kernel
/-- R59: an SMP whose responses do not fit waits. -/
theorem test_waits_for_room : after (step (sending .smpl [0#32]
    (crowded .smpl (parsing .smpl (.collecting 0x10000000#32 [0#32]) small)))) (fun t =>
    decide (t.smpl.waiting = some (.smp 0#32 0#32)) && decide (t.stage = small.stage)) = true := by decide +kernel
/-- R155: reset puts a busy block back and keeps what the host has removed. -/
theorem test_reset : after (step ((crowded .smpl (raiseIllegal .ctrl busy)).setSched [.reset 0 0])) (fun t =>
    decide (t.stage = small.stage) && decide (t.status = 0#2) && decide (t.smpl.resp = [])) = true := by decide +kernel
/-- The opcode table's first words run as the first instruction after reset. -/
theorem test_fetch_word : step (State.reset.withFetchWord 32 0x03000001) = exec .cfgrdDcap State.reset ∧
    step (State.reset.withFetchWord 32 0x10000001) = exec (.smpB 0#32 0#32) State.reset := ⟨rfl, rfl⟩

/-! ## Witnesses: a state and operands that meet the hypotheses of each statement -/

theorem test_meets_DecodeOfEncodeIsTheCommand : Instr.wellFormed .smpl (.smpB 1#32 2#32) = true := by decide
theorem test_meets_DecodedWordsAreTheEncoding :
    decode .ctrl [0x01000003#32, 5#32, 7#32] = .ok (.pwrDelayFeedback 5#32, [7#32]) := by decide
theorem test_meets_BridgeCarriesLeastSignificantByteFirst : Instr.wellFormed .ctrl (.pwrDelayMix 1#32) = true := by decide
theorem test_meets_ResetActPutsEverythingBack : (busy.setSched [.reset 1 0]).sched = .reset 1 0 :: [] := rfl
theorem test_busy_inv : MachineInv busy := by unfold MachineInv; decide +kernel
theorem test_meets_EveryStepKeepsTheInvariant :
    MachineInv (sending .ctrl [0x02000000#32] busy) ∧ after (step (sending .ctrl [0x02000000#32] busy)) (fun _ => true) = true := by
  unfold MachineInv; decide +kernel
theorem test_meets_NoStepStops : MachineInv (sending .smpl [0x04000000#32] busy) := by unfold MachineInv; decide +kernel
theorem test_meets_StepRunsTheDecodedCommand_header :
    (sending .ctrl [0x02000000#32] busy).sched = .serve .ctrl :: [] ∧
    ((sending .ctrl [0x02000000#32] busy).port .ctrl).waiting = none ∧
    ((sending .ctrl [0x02000000#32] busy).host .ctrl).toSend = 0x02000000#32 :: [] ∧
    decode .ctrl (wordsTaken ((sending .ctrl [0x02000000#32] busy).port .ctrl).parse ++ [0x02000000#32]) =
      .ok (.prdBitDepth, []) ∧ fits .ctrl .prdBitDepth (sending .ctrl [0x02000000#32] busy) = true := by decide +kernel

/-- A port that has taken all words of an SMP but the last. -/
def almost : State := sending .smpl [9#32] (parsing .smpl (.collecting 0x10000000#32 [8#32]) busy)

theorem test_meets_StepRunsTheDecodedCommand_operand : almost.sched = .serve .smpl :: [] ∧
    (almost.port .smpl).waiting = none ∧ (almost.host .smpl).toSend = 9#32 :: [] ∧
    decode .smpl (wordsTaken (almost.port .smpl).parse ++ [9#32]) = .ok (.smp 8#32 9#32, []) ∧
    fits .smpl (.smp 8#32 9#32) almost = true := by decide +kernel

/-- A host that sends a whole SMP.B. -/
def deliver : State :=
  (sending .smpl (encode (.smpB 8#32 9#32)) busy).setSched (List.replicate 3 (.serve .smpl) ++ [.remove .smpl])

theorem test_meets_DeliveredWordsRunTheCommand : Instr.wellFormed .smpl (.smpB 8#32 9#32) = true ∧
    deliver.sched = List.replicate (encode (.smpB 8#32 9#32)).length (.serve .smpl) ++ [.remove .smpl] ∧
    (deliver.port .smpl).waiting = none ∧ (deliver.port .smpl).parse = .idle ∧
    (deliver.host .smpl).toSend = encode (.smpB 8#32 9#32) ++ [] ∧ fits .smpl (.smpB 8#32 9#32) deliver = true := by
  decide +kernel
theorem test_meets_ParserKeepsHeaderAndOperands_header :
    (sending .smpl [0x10000001#32] busy).sched = .serve .smpl :: [] ∧
    ((sending .smpl [0x10000001#32] busy).port .smpl).waiting = none ∧
    ((sending .smpl [0x10000001#32] busy).host .smpl).toSend = 0x10000001#32 :: [] ∧
    ((sending .smpl [0x10000001#32] busy).port .smpl).parse = .idle ∧ legal .smpl 0x10000001#32 = true ∧
    0 < nOperands (opField 0x10000001#32) := by decide +kernel

/-- A port that has taken only the header of an SMP. -/
def started : State := sending .smpl [9#32] (parsing .smpl (.collecting 0x10000000#32 []) busy)

theorem test_meets_ParserKeepsHeaderAndOperands_operand : started.sched = .serve .smpl :: [] ∧
    (started.port .smpl).waiting = none ∧ (started.host .smpl).toSend = 9#32 :: [] ∧
    (started.port .smpl).parse = .collecting 0x10000000#32 [] ∧ legal .smpl 0x10000000#32 = true ∧
    ([] : List Word).length + 1 < nOperands (opField 0x10000000#32) := by decide +kernel
theorem test_meets_IllegalHeaderEffect : (sending .smpl [0x02000000#32] busy).sched = .serve .smpl :: [] ∧
    ((sending .smpl [0x02000000#32] busy).port .smpl).waiting = none ∧
    ((sending .smpl [0x02000000#32] busy).port .smpl).parse = .idle ∧
    ((sending .smpl [0x02000000#32] busy).host .smpl).toSend = 0x02000000#32 :: [] ∧
    legal .smpl 0x02000000#32 = false := by decide +kernel
theorem test_meets_CommandWaitsForRoom_word : (crowded .smpl almost).sched = .serve .smpl :: [] ∧
    ((crowded .smpl almost).port .smpl).waiting = none ∧ ((crowded .smpl almost).host .smpl).toSend = 9#32 :: [] ∧
    decode .smpl (wordsTaken ((crowded .smpl almost).port .smpl).parse ++ [9#32]) = .ok (.smp 8#32 9#32, []) ∧
    fits .smpl (.smp 8#32 9#32) (crowded .smpl almost) = false := by decide +kernel

/-- A port that holds an SMP back. -/
def held : State := setWaiting .smpl (some (.smp 8#32 9#32)) (busy.setSched [.serve .smpl])

theorem test_meets_CommandWaitsForRoom_waiting :
    ((crowded .smpl held).port .smpl).waiting = some (.smp 8#32 9#32) ∧
    fits .smpl (.smp 8#32 9#32) (crowded .smpl held) = false ∧ (held.port .smpl).waiting = some (.smp 8#32 9#32) ∧
    fits .smpl (.smp 8#32 9#32) held = true ∧ held.sched = .serve .smpl :: [] := by decide +kernel
theorem test_meets_IdleBlockKeepsItsState : busy.sched = [] ∧ (sending .ctrl [] busy).sched = .serve .ctrl :: [] ∧
    ((sending .ctrl [] busy).port .ctrl).waiting = none ∧ ((sending .ctrl [] busy).host .ctrl).toSend = [] := by
  decide +kernel
theorem test_meets_HostRemovesTheOldestResponse :
    ((crowded .smpl busy).setSched [.remove .smpl]).sched = .remove .smpl :: [] ∧
    (((crowded .smpl busy).setSched [.remove .smpl]).port .smpl).resp = 1#32 :: [2#32] ∧
    ((busy.setSched [.remove .smpl]).port .smpl).resp = [] := by decide +kernel
theorem test_meets_ResponsesComeOutInOrder : (∀ n m rest, almost.sched ≠ .reset n m :: rest) ∧
    after (step almost) (fun _ => true) = true :=
  ⟨fun _ _ _ h => by simp [almost, sending] at h, by decide +kernel⟩
theorem test_meets_OtherPortIsUntouched : MachineInv almost ∧ almost.sched = .serve .smpl :: [] ∧
    after (step almost) (fun _ => true) = true ∧ Port.ctrl ≠ Port.smpl := by unfold MachineInv; decide +kernel
theorem test_meets_StatusIsSticky : after (exec (.smp 8#32 9#32) busy) (fun _ => true) = true ∧
    (∀ n m rest, (sending .ctrl [0x04000000#32] busy).sched ≠ .reset n m :: rest) ∧
    after (step (sending .ctrl [0x04000000#32] busy)) (fun _ => true) = true :=
  ⟨by decide +kernel, fun _ _ _ h => by simp [sending] at h, by decide +kernel⟩
/-- The hypotheses of FinishedRunStaysOver, without and with a reset act, and a run that is not over for each reason. -/
theorem test_meets_FinishedRunStaysOver : runOver (small.setSched [.serve .ctrl]) = true ∧
    runOver (small.setSched [.reset 0 0]) = true ∧ (∀ p, (small.host p).toSend = []) ∧
    (∀ n m rest, (small.setSched [.serve .ctrl]).sched ≠ .reset n m :: rest) ∧
    after (step (small.setSched [.serve .ctrl])) (fun _ => true) = true ∧
    runOver (parsing .ctrl (.collecting 0x01000000#32 []) small) = false ∧ runOver (crowded .smpl small) = false ∧
    runOver (setWaiting .ctrl (some .nop) small) = false :=
  ⟨by decide +kernel, by decide +kernel, fun p => by cases p <;> rfl, fun _ _ _ h => (by cases h), by decide +kernel,
    by decide +kernel, by decide +kernel, by decide +kernel⟩
theorem test_meets_RecordedFaultsAreNeverCleared :
    after (step ((raiseIllegal .ctrl busy).setSched [.reset 0 0])) (fun t => decide (t.faults .ctrl = 1)) = true ∧
    after (step (sending .smpl [0x02000000#32] busy)) (fun t => decide (t.faults .smpl = 1)) = true := by
  decide +kernel

/-- The hypotheses on the bounds and one value for each clause: NaN, -inf, +inf, below, above, at each bound, -0. -/
theorem test_meets_ClampsFollowValues : isFinite posZero = true ∧ isFinite one32 = true ∧ signBit posZero = false ∧
    signBit one32 = false ∧ value posZero ≤ value one32 ∧ isNaN 0x7FC00000#32 = true ∧
    value 0x80000001#32 < value posZero ∧ value one32 < value 0x3F800001#32 ∧
    clampF 0x7FC00000#32 posZero one32 = posZero ∧ clampF negInf posZero one32 = posZero ∧
    clampF posInf posZero one32 = one32 ∧ clampF 0x80000001#32 posZero one32 = posZero ∧
    clampF 0x3F800001#32 posZero one32 = one32 ∧ clampF posZero posZero one32 = posZero ∧
    clampF one32 posZero one32 = one32 ∧ clampF negZero posZero one32 = posZero := by decide +kernel
theorem test_meets_ParametersStayInTheirDomains : busy.params.ok = true ∧
    after (exec (.pwrDelayTime 0x7FC00000#32) busy) (fun _ => true) = true := by decide +kernel
theorem test_meets_PrdReturnsTheStoredParameter : (Instr.prdDelayTime, 0x02000002#32, busy.params.delayTime) ∈
    [(Instr.prdBitDepth, 0x02000000#32, BitVec.ofNat 32 busy.params.bitDepth),
      (.prdDelayTime, 0x02000002#32, busy.params.delayTime)] := by decide
theorem test_meets_CfgrdReturnsTheWord : (Instr.cfgrdFs, 0x03000000#32, BitVec.ofNat 32 busy.cfg.fs) ∈
    [(Instr.cfgrdFs, 0x03000000#32, BitVec.ofNat 32 busy.cfg.fs)] := by decide
theorem test_meets_OnlySampleStepsChangeStageState :
    after (exec (.pwrDelayMix 1#32) busy) (fun _ => true) = true ∧ isParamWrite (.pwrDelayMix 1#32) = true ∧
    isSample (.pwrDelayMix 1#32) = false ∧ after (exec .prdDelayMix busy) (fun _ => true) = true ∧
    isSample .prdDelayMix = false ∧ isParamWrite .prdDelayMix = false := by decide +kernel

/-- The hypothesis of SampleStepAnswersTwoLanes, DecimatorCapturesAndCounts and LatchMovesOnlyAtBlockStart. -/
theorem test_meets_indicesInRange : indicesInRange busy.cfg busy.stage = true ∧
    (∀ wl wr, Instr.smp 1#32 2#32 ≠ .smpB wl wr) ∧ after (exec (.smp 1#32 2#32) busy) (fun _ => true) = true :=
  ⟨by decide +kernel, fun _ _ h => (by cases h), by decide +kernel⟩
/-- The hypothesis of DelayLineWritesAtTheHead, CombBankWritesAtTheHeads and AllpassWritesAtTheHead. -/
theorem test_meets_stageOk : busy.stage.ok busy.cfg = true := by decide +kernel
/-- Both sides of SampleStopsOnlyOutOfRange, each in some state. -/
theorem test_meets_SampleStopsOnlyOutOfRange : indicesInRange astray.cfg astray.stage = false ∧
    indicesInRange busy.cfg busy.stage = true := by decide +kernel
theorem test_meets_SampleDependsOnlyOnAudioState : (raiseIllegal .ctrl busy).cfg = busy.cfg ∧
    (raiseIllegal .ctrl busy).params = busy.params ∧ (raiseIllegal .ctrl busy).stage = busy.stage ∧
    after (exec (sampleCommand false 1#32 2#32) busy) (fun _ => true) = true ∧
    after (exec (sampleCommand false 1#32 2#32) (raiseIllegal .ctrl busy)) (fun _ => true) = true := by decide +kernel
theorem test_meets_DelayTimeWaitsForABlockStart :
    after (exec (.pwrDelayTime 0x3F800000#32) busy) (fun s' =>
      after (exec (.smp 1#32 2#32) busy) fun _ => after (exec (.smp 1#32 2#32) s') fun _ => true) = true := by
  decide +kernel
theorem test_meets_ResetSettingsPassTheInput : busy.params = Params.reset ∧ busy.stage.ctr = 0 ∧
    busy.stage.finite = true ∧ isFinite 0x3F000000#32 = true ∧ isFinite 0xBF000000#32 = true ∧
    isFinite (trace false 0x3F000000#32 0xBF000000#32 busy).dif = true := by decide +kernel
theorem test_meets_NonFiniteDelayRecurs : poisoned.stage.ok poisoned.cfg = true ∧
    isFinite (trace false 0#32 0#32 poisoned).dL = false ∧ isFinite (trace false 0#32 0#32 poisoned).dR = false ∧
    poisoned.params.delayMix = 0x00000000#32 := by decide +kernel
theorem test_meets_DelayLengthIsBelowCapacity : (Cfg.standard 1 2).wf = true ∧ Params.reset.ok = true ∧
    ({ Params.reset with delayTime := delayTimeMax } : Params).ok = true ∧
    ({ Params.reset with delayTime := delayTimeMin } : Params).ok = true := by decide +kernel
/-- The hypotheses of CombLengthIsInRange and CombFeedbackIsInRange, at both ends. -/
theorem test_meets_sizes : inBounds 0x3DCCCCCD#32 0x3DCCCCCD#32 0x3F800000#32 = true ∧
    inBounds 0x3F800000#32 0x3DCCCCCD#32 0x3F800000#32 = true ∧ combLength 1 0x3DCCCCCD#32 = 1 ∧
    combLength 65535 0x3F800000#32 = 65535 := by decide +kernel
/-- The hypotheses of AddRoundsTheExactSum and MulRoundsTheExactProduct, with an exact zero sum. -/
theorem test_meets_finiteOperands : isFinite 0x3F800000#32 = true ∧ isFinite 0xBF800000#32 = true ∧
    value 0x3F800000#32 + value 0xBF800000#32 = 0 ∧ isFinite negZero = true ∧ isFinite posZero = true ∧
    value negZero - value posZero = 0 := by decide +kernel
theorem test_meets_InfiniteOperands : isInf posInf = true ∧ isFinite 0x3F800000#32 = true ∧ isInf negInf = true ∧
    isZero negZero = true ∧ isNaN 0x3F800000#32 = false ∧ isZero 0x3F800000#32 = false := by decide
theorem test_meets_NaNResultsAreOneWord : isNaN (add32 posInf negInf) = true ∧ isNaN (sub32 posInf posInf) = true ∧
    isNaN (mul32 posInf negZero) = true ∧ isNaN (tanhRN 0x7FC00001#32) = true ∧ isNaN 0xFFFFFFFF#32 = true := by
  decide +kernel
theorem test_meets_IntegerConversionsAreExact : 16777215 < 2 ^ 24 ∧ isFinite 0xBFC00000#32 = true := by decide
theorem test_meets_QuantizerRoundsToTheStep : isFinite posInf = false ∧ isFinite 0xBE800000#32 = true ∧
    ⌊value 0xBE800000#32 * 2 ^ (2 - 1) + 1 / 2⌋ = 0 ∧ ⌊value 0x3E800000#32 * 2 ^ (2 - 1) + 1 / 2⌋ ≠ 0 := by
  decide +kernel
theorem test_meets_TanhIsCorrectlyRoundedWhereResolved : isFinite 0x3F000000#32 = true ∧ tanhResolved 0x3F000000#32 = true ∧
    tanhResolved 0x41102CB3#32 = true ∧ tanhResolved 0x00000001#32 = true := by decide +kernel
theorem test_meets_TanhShape : isNaN 0x3F000000#32 = false ∧ isNaN 0xFFFFFFFF#32 = true := by decide
theorem test_meets_LimiterOutputIsBounded : isNaN 0xFF800000#32 = false ∧ 0x41102CB4 ≤ magBits 0xC1102CB4#32 := by decide

end Sys2Proof.Tests
end

section
/-! PROOFS. The arithmetic of 00_scope.md R11 to R17 (family 00_scope.md: O46 to O51, O53, O54). A finite word is a sign and
a magnitude in units of 2^-149; `RoundsToMag` says what it is to round a magnitude, `roundMag` does it, and every
operation of R11, R14, R16 and R17 is a sign and one such rounding. -/

namespace Sys2Proof.Machine

/-! ### The kinds of words -/

theorem magBits_lt (w : Word) : magBits w < 2 ^ 31 := Nat.mod_lt _ (by norm_num)

theorem isFinite_iff (w : Word) : isFinite w = true ↔ magBits w < 0x7F800000 := by
  have hm := magBits_lt w
  unfold isFinite expField
  rw [decide_eq_true_iff]
  omega

theorem isNaN_iff (w : Word) : isNaN w = true ↔ 0x7F800000 < magBits w := by
  have hm := magBits_lt w
  unfold isNaN expField fracField
  rw [Bool.and_eq_true, decide_eq_true_iff, decide_eq_true_iff]
  omega

theorem isInf_iff (w : Word) : isInf w = true ↔ magBits w = 0x7F800000 := by
  have hm := magBits_lt w
  unfold isInf expField fracField
  rw [Bool.and_eq_true, decide_eq_true_iff, decide_eq_true_iff]
  omega

theorem isZero_iff (w : Word) : isZero w = true ↔ magBits w = 0 := decide_eq_true_iff

theorem isNaN_of_isFinite {w : Word} (h : isFinite w = true) : isNaN w = false := by
  rw [isFinite_iff] at h
  rw [Bool.eq_false_iff, Ne, isNaN_iff]
  omega

theorem isInf_of_isFinite {w : Word} (h : isFinite w = true) : isInf w = false := by
  rw [isFinite_iff] at h
  rw [Bool.eq_false_iff, Ne, isInf_iff]
  omega

theorem isNaN_of_isInf {w : Word} (h : isInf w = true) : isNaN w = false := by
  rw [isInf_iff] at h
  rw [Bool.eq_false_iff, Ne, isNaN_iff]
  omega

/-- No word but a NaN passes the bits of an infinity. -/
theorem isNaN_packWord {neg : Bool} {mag : ℕ} (h : mag ≤ 0x7F800000) : isNaN (packWord neg mag) = false := by
  rw [Bool.eq_false_iff, Ne, isNaN_iff, magBits_packWord (by omega)]
  omega

/-- Words are equal when their sign and their other bits are. -/
theorem word_ext {v w : Word} (hs : signBit v = signBit w) (hm : magBits v = magBits w) : v = w := by
  rw [← packWord_fields v, hs, hm, packWord_fields]

/-! ### The opposite of a word -/

theorem signBit_eq_msb (w : Word) : signBit w = w.msb := (BitVec.msb_eq_decide w).symm

@[simp] theorem signBit_neg32 (w : Word) : signBit (neg32 w) = !signBit w := by
  rw [signBit_eq_msb, signBit_eq_msb, neg32, BitVec.msb_xor]
  exact Bool.xor_true _

@[simp] theorem magBits_neg32 (w : Word) : magBits (neg32 w) = magBits w := by
  unfold magBits neg32
  rw [BitVec.toNat_xor, Nat.xor_mod_two_pow]
  exact Nat.xor_zero _

theorem neg32_packWord {neg : Bool} {mag : ℕ} (h : mag < 2 ^ 31) : neg32 (packWord neg mag) = packWord (!neg) mag :=
  word_ext (by rw [signBit_neg32, signBit_packWord h, signBit_packWord h])
    (by rw [magBits_neg32, magBits_packWord h, magBits_packWord h])

@[simp] theorem isNaN_neg32 (w : Word) : isNaN (neg32 w) = isNaN w := by
  unfold isNaN expField fracField; rw [magBits_neg32]
@[simp] theorem isInf_neg32 (w : Word) : isInf (neg32 w) = isInf w := by
  unfold isInf expField fracField; rw [magBits_neg32]
@[simp] theorem isFinite_neg32 (w : Word) : isFinite (neg32 w) = isFinite w := by
  unfold isFinite expField; rw [magBits_neg32]

@[simp] theorem magUnits_neg32 (w : Word) : magUnits (neg32 w) = magUnits w := by
  simp [magUnits, expField, fracField]

@[simp] theorem units_neg32 (w : Word) : units (neg32 w) = -units w := by
  unfold units
  rw [signBit_neg32, magUnits_neg32]
  cases signBit w <;> simp

@[simp] theorem value_neg32 (w : Word) : value (neg32 w) = -value w := by
  unfold value
  rw [units_neg32, Int.cast_neg, neg_div]

/-! ### The binades: what the bits below the sign are worth -/

/-- The units of a word, from the bits below its sign: `magUnits w` is `unitsOfMag (magBits w)`. -/
def unitsOfMag (m : ℕ) : ℕ :=
  if m / 2 ^ 23 = 0 then m % 2 ^ 23 else (2 ^ 23 + m % 2 ^ 23) * 2 ^ (m / 2 ^ 23 - 1)

theorem magUnits_eq_unitsOfMag (w : Word) : magUnits w = unitsOfMag (magBits w) := rfl

/-- A binade counts in steps of 2^s, and a carry out of its significand is the first word of the next binade. -/
theorem unitsOfMag_binade {s q : ℕ} (hq : q ≤ 2 ^ 24) (hs : s = 0 ∨ 2 ^ 23 ≤ q) :
    unitsOfMag (s * 2 ^ 23 + q) = q * 2 ^ s := by
  unfold unitsOfMag
  obtain hlow | hnormal | hcarry : q < 2 ^ 23 ∨ (2 ^ 23 ≤ q ∧ q < 2 ^ 24) ∨ q = 2 ^ 24 := by omega
  · have hs0 : s = 0 := by omega
    subst hs0
    rw [if_pos (by omega)]
    omega
  · have he : (s * 2 ^ 23 + q) / 2 ^ 23 = s + 1 := by omega
    have hf : 2 ^ 23 + (s * 2 ^ 23 + q) % 2 ^ 23 = q := by omega
    rw [he, hf, if_neg (Nat.succ_ne_zero s), Nat.add_sub_cancel]
  · have he : (s * 2 ^ 23 + q) / 2 ^ 23 = s + 2 := by omega
    have hf : (s * 2 ^ 23 + q) % 2 ^ 23 = 0 := by omega
    rw [he, hf, if_neg (by omega), hcarry, show s + 2 - 1 = s + 1 from rfl]
    ring

/-- Every number of bits stands in one binade. -/
theorem exists_binade (m : ℕ) : ∃ s q, m = s * 2 ^ 23 + q ∧ q < 2 ^ 24 ∧ (s = 0 ∨ 2 ^ 23 ≤ q) :=
  ⟨m / 2 ^ 23 - 1, m - (m / 2 ^ 23 - 1) * 2 ^ 23, by omega, by omega, by omega⟩

theorem unitsOfMag_strictMono : StrictMono unitsOfMag := by
  refine strictMono_nat_of_lt_succ fun m => ?_
  obtain ⟨s, q, rfl, hq, hs⟩ := exists_binade m
  rw [unitsOfMag_binade hq.le hs, add_assoc, unitsOfMag_binade hq (by omega)]
  exact Nat.mul_lt_mul_of_pos_right q.lt_succ_self (by positivity)

@[simp] theorem unitsOfMag_zero : unitsOfMag 0 = 0 := rfl

theorem unitsOfMag_eq_zero {m : ℕ} : unitsOfMag m = 0 ↔ m = 0 :=
  unitsOfMag_strictMono.injective.eq_iff' unitsOfMag_zero

/-- From binade s on, every value is a multiple of the step 2^s. -/
theorem unitsOfMag_lt_or_multiple (m s : ℕ) : unitsOfMag m < 2 ^ (s + 23) ∨ ∃ k, unitsOfMag m = k * 2 ^ s := by
  obtain ⟨e, q, rfl, hq, he⟩ := exists_binade m
  rw [unitsOfMag_binade hq.le he]
  obtain h | h := Nat.lt_or_ge e s
  · left
    calc q * 2 ^ e < 2 ^ 24 * 2 ^ e := Nat.mul_lt_mul_of_pos_right hq (by positivity)
      _ = 2 ^ (e + 1 + 23) := by ring
      _ ≤ 2 ^ (s + 23) := Nat.pow_le_pow_right (by norm_num) (by omega)
  · exact .inr ⟨q * 2 ^ (e - s), by rw [mul_assoc, ← pow_add, Nat.sub_add_cancel h]⟩

/-! ### Rounding to an integer -/

/-- `q` is the real `y` rounded to an integer, ties to even: within a half, and even at exactly a half. -/
def RoundsToNat (y : ℝ) (q : ℕ) : Prop := |y - q| ≤ 1 / 2 ∧ (|y - q| = 1 / 2 → q % 2 = 0)

theorem roundsToNat_nearestEven (n : ℕ) {d : ℕ} (hd : 0 < d) : RoundsToNat ((n : ℝ) / d) (nearestEven n d) := by
  have hd' : (0 : ℝ) < d := by exact_mod_cast hd
  have hsplit : (n : ℝ) / d = (n / d : ℕ) + ((n % d : ℕ) : ℝ) / d := by
    rw [eq_comm, ← mul_right_inj' hd'.ne', mul_add, mul_div_cancel₀ _ hd'.ne', mul_div_cancel₀ _ hd'.ne']
    exact_mod_cast Nat.div_add_mod n d
  have hrem : ((n % d : ℕ) : ℝ) / d < 1 := (div_lt_one hd').2 (by exact_mod_cast Nat.mod_lt n hd)
  have hrem0 : 0 ≤ ((n % d : ℕ) : ℝ) / d := by positivity
  rw [hsplit]
  unfold nearestEven RoundsToNat
  split_ifs with hdown hup
  · have hlt : ((n % d : ℕ) : ℝ) / d < 1 / 2 := by
      rw [div_lt_div_iff₀ hd' two_pos, one_mul, mul_comm]; exact_mod_cast hdown
    rw [add_sub_cancel_left, abs_of_nonneg hrem0]
    exact ⟨hlt.le, fun h => absurd h hlt.ne⟩
  · have hgt : 1 / 2 < ((n % d : ℕ) : ℝ) / d := by
      rw [div_lt_div_iff₀ two_pos hd', one_mul, mul_comm]; exact_mod_cast hup
    rw [Nat.cast_succ, add_sub_add_left_eq_sub, abs_of_neg (by linarith)]
    exact ⟨by linarith, fun h => by linarith⟩
  · have heq : ((n % d : ℕ) : ℝ) / d = 1 / 2 := by
      rw [div_eq_div_iff hd'.ne' two_ne_zero, one_mul, mul_comm]; exact_mod_cast (by omega : 2 * (n % d) = d)
    rw [heq, Nat.cast_add, add_sub_add_left_eq_sub]
    refine ⟨?_, fun _ => by omega⟩
    obtain h | h := Nat.mod_two_eq_zero_or_one (n / d) <;> rw [h] <;> norm_num [abs_of_neg]

/-- No natural number is nearer than the rounded one, and another one is as near only if that is even. -/
theorem RoundsToNat.nearest {y : ℝ} {q : ℕ} (h : RoundsToNat y q) (k : ℕ) :
    |y - q| ≤ |y - k| ∧ (k ≠ q → |y - k| = |y - q| → q % 2 = 0) := by
  obtain ⟨hhalf, htie⟩ := h
  by_cases hk : k = q
  · simp [hk]
  · have hgap : (1 : ℝ) ≤ |(k : ℝ) - q| := by
      exact_mod_cast Int.one_le_abs (sub_ne_zero.2 (Nat.cast_injective.ne hk : (k : ℤ) ≠ q))
    have htri : |(k : ℝ) - q| ≤ |y - q| + |y - k| := by
      rw [add_comm, abs_sub_comm y k]; exact abs_sub_le _ _ _
    exact ⟨by linarith, fun _ heq => htie (by linarith)⟩

/-! ### Rounding a magnitude -/

/-- The bits `m` are the nonnegative real `t`, counted in units of 2^-149, rounded to binary32 with roundTiesToEven
(R11): `IsRounded` for the part of a word below its sign. -/
def RoundsToMag (t : ℝ) (m : ℕ) : Prop :=
  if t < (2 ^ 25 - 1) * 2 ^ 252 then
    m < 0x7F800000 ∧ (∀ k, |t - unitsOfMag m| ≤ |t - unitsOfMag k|) ∧
      ∀ k, unitsOfMag k ≠ unitsOfMag m → |t - unitsOfMag k| = |t - unitsOfMag m| → m % 2 = 0
  else m = 0x7F800000

/-- Rounding the significand within the binade of `t` finds the nearest of all values. -/
theorem nearest_in_binade {t : ℝ} {s q : ℕ} (hq : q ≤ 2 ^ 24) (hsq : s = 0 ∨ 2 ^ 23 ≤ q)
    (hst : s = 0 ∨ 2 ^ (s + 23) ≤ t) (hround : RoundsToNat (t / 2 ^ s) q) (k : ℕ) :
    |t - unitsOfMag (s * 2 ^ 23 + q)| ≤ |t - unitsOfMag k| ∧
      (unitsOfMag k ≠ unitsOfMag (s * 2 ^ 23 + q) →
        |t - unitsOfMag k| = |t - unitsOfMag (s * 2 ^ 23 + q)| → q % 2 = 0) := by
  have hpos : (0 : ℝ) < 2 ^ s := by positivity
  have hscale : ∀ j : ℕ, |t - (j * 2 ^ s : ℕ)| = |t / 2 ^ s - j| * 2 ^ s := fun j => by
    rw [← abs_of_pos hpos, ← abs_mul, abs_of_pos hpos, sub_mul, div_mul_cancel₀ _ hpos.ne']
    push_cast; rfl
  rw [unitsOfMag_binade hq hsq, hscale q]
  have hk : (∃ j, unitsOfMag k = j * 2 ^ s) ∨ ((unitsOfMag k : ℝ) < 2 ^ (s + 23) ∧ 2 ^ (s + 23) ≤ t) := by
    obtain rfl | hst := hst
    · exact .inl ⟨unitsOfMag k, by rw [pow_zero, mul_one]⟩
    · obtain hlt | hmul := unitsOfMag_lt_or_multiple k s
      · exact .inr ⟨by exact_mod_cast hlt, hst⟩
      · exact .inl hmul
  obtain ⟨j, hj⟩ | ⟨hlow, ht⟩ := hk
  · rw [hj, hscale j]
    obtain ⟨hle, htie⟩ := hround.nearest j
    refine ⟨mul_le_mul_of_nonneg_right hle hpos.le, fun hne heq => htie ?_ (mul_right_cancel₀ hpos.ne' heq)⟩
    rintro rfl; exact hne rfl
  · have hedge : ((2 ^ 23 * 2 ^ s : ℕ) : ℝ) = 2 ^ (s + 23) := by push_cast; ring
    have hfar : |t / 2 ^ s - q| * 2 ^ s < |t - unitsOfMag k| := by
      calc |t / 2 ^ s - q| * 2 ^ s ≤ |t / 2 ^ s - (2 ^ 23 : ℕ)| * 2 ^ s :=
            mul_le_mul_of_nonneg_right (hround.nearest _).1 hpos.le
        _ = t - 2 ^ (s + 23) := by rw [← hscale, hedge, abs_of_nonneg (sub_nonneg.2 ht)]
        _ < |t - unitsOfMag k| := by rw [abs_of_pos (by linarith)]; linarith
    exact ⟨hfar.le, fun _ heq => absurd heq hfar.ne'⟩

/-- The significand of a real in binade s, rounded, stays between the binade's first and the next binade's first. -/
theorem significand_range {t : ℝ} {s q : ℕ} (hlt : t < 2 ^ (s + 24)) (hst : s = 0 ∨ 2 ^ (s + 23) ≤ t)
    (hround : RoundsToNat (t / 2 ^ s) q) : q ≤ 2 ^ 24 ∧ (s = 0 ∨ 2 ^ 23 ≤ q) := by
  have hpos : (0 : ℝ) < 2 ^ s := by positivity
  obtain ⟨hlo, hhi⟩ := abs_le.1 hround.1
  have hy : t / 2 ^ s < 2 ^ 24 := (div_lt_iff₀ hpos).2 (by rwa [← pow_add, add_comm])
  refine ⟨?_, hst.imp_right fun h => ?_⟩
  · have : (q : ℝ) < (2 ^ 24 + 1 : ℕ) := by push_cast; linarith
    exact Nat.lt_succ_iff.1 (by exact_mod_cast this)
  · have hy' : 2 ^ 23 ≤ t / 2 ^ s := (le_div_iff₀ hpos).2 (by rwa [← pow_add, add_comm])
    have : ((2 ^ 23 : ℕ) : ℝ) < (q + 1 : ℕ) := by push_cast; linarith
    exact Nat.lt_succ_iff.1 (by exact_mod_cast this)

/-- A significand is rounded up to a carry from the midpoint below 2^24 on, which is a tie of an odd number. -/
theorem carry_iff {y : ℝ} {q : ℕ} (hq : q ≤ 2 ^ 24) (hround : RoundsToNat y q) :
    q < 2 ^ 24 ↔ y < 2 ^ 24 - 1 / 2 := by
  obtain ⟨hc, he⟩ := hround
  obtain ⟨hlo, hhi⟩ := abs_le.1 hc
  obtain rfl | hodd | hlt : q = 2 ^ 24 ∨ q = 2 ^ 24 - 1 ∨ q + 1 ≤ 2 ^ 24 - 1 := by omega
  · push_cast at hlo
    exact ⟨fun h => absurd h (lt_irrefl _), fun h => by linarith⟩
  · have hne : |y - q| ≠ 1 / 2 := fun h => by have := he h; omega
    have hq' : (q : ℝ) = 2 ^ 24 - 1 := by rw [hodd]; norm_num
    refine ⟨fun _ => ?_, fun _ => by omega⟩
    have := lt_of_le_of_ne hc hne
    linarith [(abs_lt.1 this).2]
  · have hq' : ((q + 1 : ℕ) : ℝ) ≤ (2 ^ 24 - 1 : ℕ) := by exact_mod_cast hlt
    refine ⟨fun _ => ?_, fun _ => by omega⟩
    norm_num at hq' ⊢
    linarith

/-- A magnitude overflows exactly when its rounded bits reach those of an infinity. -/
theorem binade_lt_inf_iff {t : ℝ} {s q : ℕ} (hlt : t < 2 ^ (s + 24)) (hst : s = 0 ∨ 2 ^ (s + 23) ≤ t)
    (hround : RoundsToNat (t / 2 ^ s) q) :
    s * 2 ^ 23 + q < 0x7F800000 ↔ t < (2 ^ 25 - 1) * 2 ^ 252 := by
  obtain ⟨hq, hsq⟩ := significand_range hlt hst hround
  obtain hs | rfl | hs := Nat.lt_trichotomy s 253
  · refine ⟨fun _ => hlt.trans_le ?_, fun _ => by omega⟩
    calc (2 : ℝ) ^ (s + 24) ≤ 2 ^ (24 + 252) := pow_le_pow_right₀ one_le_two (by omega)
      _ = 2 ^ 24 * 2 ^ 252 := pow_add _ _ _
      _ ≤ (2 ^ 25 - 1) * 2 ^ 252 := mul_le_mul_of_nonneg_right (by norm_num) (by positivity)
  · have hscale : t < (2 ^ 25 - 1) * 2 ^ 252 ↔ t / 2 ^ 253 < 2 ^ 24 - 1 / 2 := by
      rw [div_lt_iff₀ (by positivity)]; norm_num
    rw [hscale, ← carry_iff hq hround]
    omega
  · have hbig : ((2 : ℝ) ^ 25 - 1) * 2 ^ 252 ≤ t := by
      calc ((2 : ℝ) ^ 25 - 1) * 2 ^ 252 ≤ 2 ^ 25 * 2 ^ 252 :=
            mul_le_mul_of_nonneg_right (by norm_num) (by positivity)
        _ = 2 ^ (25 + 252) := (pow_add _ _ _).symm
        _ ≤ 2 ^ (s + 23) := pow_le_pow_right₀ one_le_two (by omega)
        _ ≤ t := hst.resolve_left (by omega)
    exact ⟨fun _ => by omega, fun h => absurd h hbig.not_gt⟩

/-- The binade `roundMag` rounds in is that of n/d. -/
theorem log2_binade (n d : ℕ) :
    (n : ℝ) / d < 2 ^ (Nat.log2 (n / d) - 23 + 24) ∧
      (Nat.log2 (n / d) - 23 = 0 ∨ 2 ^ (Nat.log2 (n / d) - 23 + 23) ≤ (n : ℝ) / d) := by
  have hfloor : (n : ℝ) / d < (n / d : ℕ) + 1 := by
    rw [← Nat.floor_div_eq_div (K := ℝ)]; exact Nat.lt_floor_add_one _
  constructor
  · have hlt : n / d + 1 ≤ 2 ^ (Nat.log2 (n / d) - 23 + 24) :=
      Nat.lt_log2_self.trans_le (Nat.pow_le_pow_right (by norm_num) (by omega))
    exact hfloor.trans_le (by exact_mod_cast hlt)
  · by_cases hs : Nat.log2 (n / d) - 23 = 0
    · exact .inl hs
    · have hne : n / d ≠ 0 := fun h => hs (by rw [h]; decide)
      have hle : 2 ^ (Nat.log2 (n / d) - 23 + 23) ≤ n / d := by
        rw [Nat.sub_add_cancel (by omega)]; exact Nat.log2_self_le hne
      exact .inr ((by exact_mod_cast hle : (2 : ℝ) ^ _ ≤ (n / d : ℕ)).trans Nat.cast_div_le)

/-- `roundMag` is the rounding of R11. -/
theorem roundsToMag_roundMag (n : ℕ) {d : ℕ} (hd : 0 < d) : RoundsToMag ((n : ℝ) / d) (roundMag n d) := by
  obtain ⟨hlt, hst⟩ := log2_binade n d
  have hround := roundsToNat_nearestEven n (d := d * 2 ^ (Nat.log2 (n / d) - 23)) (by positivity)
  unfold roundMag
  generalize Nat.log2 (n / d) - 23 = s at *
  dsimp only
  rw [Nat.cast_mul, Nat.cast_pow, Nat.cast_two, ← div_div] at hround
  generalize nearestEven n (d * 2 ^ s) = q at *
  obtain ⟨hq, hsq⟩ := significand_range hlt hst hround
  have hinf := binade_lt_inf_iff hlt hst hround
  unfold RoundsToMag
  split_ifs with h
  · have hm := hinf.2 h
    have hnear := nearest_in_binade hq hsq hst hround
    rw [min_eq_left hm.le]
    refine ⟨hm, fun k => (hnear k).1, fun k hne heq => ?_⟩
    have := (hnear k).2 hne heq
    omega
  · exact min_eq_right (not_lt.1 (mt hinf.1 h))

/-! ### Roundings of a range -/

/-- Being no farther from `w` than from `v` is kept between two reals. -/
theorem nearer_between {a b t w v : ℝ} (ha : a ≤ t) (hb : t ≤ b) (hwa : |a - w| ≤ |a - v|) (hwb : |b - w| ≤ |b - v|) :
    |t - w| ≤ |t - v| ∧ (v ≠ w → |t - v| = |t - w| → t = a ∨ t = b) := by
  have hsq : ∀ x : ℝ, |x - w| ≤ |x - v| ↔ (v - w) * (2 * x - w - v) ≤ 0 := fun x => by
    rw [← sq_le_sq, ← sub_nonpos]; ring_nf
  have hsq' : |t - v| = |t - w| ↔ (v - w) * (2 * t - w - v) = 0 := by
    rw [← sq_eq_sq_iff_abs_eq_abs, ← sub_eq_zero, ← neg_eq_zero]; ring_nf
  rw [hsq] at hwa hwb ⊢
  rw [hsq']
  obtain h | h := le_total v w
  · refine ⟨by nlinarith [mul_nonneg (sub_nonneg.2 h) (sub_nonneg.2 ha)], fun hne heq => .inl (ha.antisymm' ?_)⟩
    have hmid := (mul_eq_zero.1 heq).resolve_left (sub_ne_zero.2 hne)
    have := nonneg_of_mul_nonpos_right hwa (sub_neg.2 (lt_of_le_of_ne h hne))
    linarith
  · refine ⟨by nlinarith [mul_nonneg (sub_nonneg.2 h) (sub_nonneg.2 hb)], fun hne heq => .inr (hb.antisymm ?_)⟩
    have hmid := (mul_eq_zero.1 heq).resolve_left (sub_ne_zero.2 hne)
    have := nonpos_of_mul_nonpos_right hwb (sub_pos.2 (lt_of_le_of_ne h hne.symm))
    linarith

/-- If two reals round to one word, every real between them does. -/
theorem RoundsToMag.between {a b t : ℝ} {m : ℕ} (hma : RoundsToMag a m) (hmb : RoundsToMag b m) (ha : a ≤ t)
    (hb : t ≤ b) : RoundsToMag t m := by
  unfold RoundsToMag at *
  split_ifs with ht
  · rw [if_pos (ha.trans_lt ht)] at hma
    obtain ⟨hm, hneara, htiea⟩ := hma
    split_ifs at hmb
    · obtain ⟨-, hnearb, htieb⟩ := hmb
      have hbetween := fun k => nearer_between ha hb (hneara k) (hnearb k)
      refine ⟨hm, fun k => (hbetween k).1, fun k hne heq => ?_⟩
      obtain rfl | rfl := (hbetween k).2 (by exact_mod_cast hne) heq
      · exact htiea k hne heq
      · exact htieb k hne heq
    · omega
  · rwa [if_neg fun h => ht (hb.trans_lt h)] at hmb

/-! ### Words -/

/-- A real with a sign. -/
def signed (neg : Bool) (t : ℝ) : ℝ := if neg then -t else t

theorem cast_value (w : Word) : ((value w : ℚ) : ℝ) = signed (signBit w) (unitsOfMag (magBits w)) / 2 ^ 149 := by
  unfold value units signed
  rw [magUnits_eq_unitsOfMag]
  split_ifs <;> push_cast <;> rfl

@[simp] theorem signed_false (t : ℝ) : signed false t = t := rfl
@[simp] theorem signed_true (t : ℝ) : signed true t = -t := rfl
@[simp] theorem abs_signed (s : Bool) (t : ℝ) : |signed s t| = |t| := by cases s <;> simp

theorem abs_signed_sub_signed (s₁ s₂ : Bool) (t u : ℝ) : |signed s₁ t - signed s₂ u| = |t - signed (s₁ != s₂) u| := by
  cases s₁
  · cases s₂ <;> rfl
  · rw [← abs_neg, neg_sub']
    cases s₂ <;> simp

theorem signed_eq_signed {s₁ s₂ : Bool} {u : ℝ} (h : signed (s₁ != s₂) u = u) : signed s₂ u = signed s₁ u := by
  cases s₁ <;> cases s₂ <;> simp_all

/-- A nonnegative value as near as any other, zero among them, is nearer than the negative ones, and as near as one
only where that is zero. -/
theorem nearest_signed {t w u : ℝ} (s : Bool) (ht : 0 ≤ t) (hu : 0 ≤ u) (hw : |t - w| ≤ |t - u|) (h0 : |t - w| ≤ t) :
    |t - w| ≤ |t - signed s u| ∧ (|t - signed s u| = |t - w| → signed s u = u) := by
  cases s with
  | false => exact ⟨hw, fun _ => rfl⟩
  | true =>
    rw [signed_true, sub_neg_eq_add, abs_of_nonneg (add_nonneg ht hu)]
    exact ⟨by linarith, fun h => by linarith⟩

/-- How far a signed real is from the value of a word. -/
theorem abs_sub_value (neg : Bool) (t : ℝ) (v : Word) :
    |signed neg t / 2 ^ 149 - ((value v : ℚ) : ℝ)| =
      |t - signed (neg != signBit v) (unitsOfMag (magBits v))| / 2 ^ 149 := by
  rw [cast_value, ← sub_div, abs_div, abs_signed_sub_signed, abs_of_pos (by positivity : (0 : ℝ) < 2 ^ 149)]

theorem signed_div_neg_iff {neg : Bool} {t : ℝ} (ht : 0 ≤ t) : signed neg t / 2 ^ 149 < 0 ↔ neg = true ∧ 0 < t := by
  rw [div_lt_iff₀ (by positivity), zero_mul]
  cases neg <;> simp [ht]

theorem signed_div_pos_iff {neg : Bool} {t : ℝ} (ht : 0 ≤ t) : 0 < signed neg t / 2 ^ 149 ↔ neg = false ∧ 0 < t := by
  rw [lt_div_iff₀ (by positivity), zero_mul]
  cases neg <;> simp [ht]

/-- A word rounded below its sign is rounded. -/
theorem RoundsToMag.isRounded {t : ℝ} {m : ℕ} (neg : Bool) (ht : 0 ≤ t) (h : RoundsToMag t m) :
    IsRounded (signed neg t / 2 ^ 149) (packWord neg m) := by
  have hp : (0 : ℝ) < 2 ^ 149 := by positivity
  have hover : |signed neg t / 2 ^ 149| < ((overflowAt : ℚ) : ℝ) ↔ t < (2 ^ 25 - 1) * 2 ^ 252 := by
    rw [abs_div, abs_signed, abs_of_nonneg ht, abs_of_pos hp, div_lt_iff₀ hp]; norm_num [overflowAt]
  unfold RoundsToMag at h
  unfold IsRounded
  simp only [hover, signed_div_neg_iff ht, signed_div_pos_iff ht]
  by_cases hfin : t < (2 ^ 25 - 1) * 2 ^ 252
  · rw [if_pos hfin] at h ⊢
    obtain ⟨hm, hnear, htie⟩ := h
    have hsign := signBit_packWord (neg := neg) (hm.trans (by norm_num))
    have hmag := magBits_packWord (neg := neg) (hm.trans (by norm_num))
    have hzero : |t - unitsOfMag m| ≤ t := by simpa [abs_of_nonneg ht] using hnear 0
    have hothers := fun v =>
      nearest_signed (neg != signBit v) ht (Nat.cast_nonneg (unitsOfMag (magBits v))) (hnear _) hzero
    have hself : |t - signed (neg != signBit (packWord neg m)) (unitsOfMag (magBits (packWord neg m)))| =
        |t - unitsOfMag m| := by rw [hsign, hmag, bne_self_eq_false, signed_false]
    simp only [abs_sub_value, hself, div_le_div_iff_of_pos_right hp, div_left_inj' hp.ne']
    refine ⟨by rwa [isFinite_iff, hmag], fun v _ => (hothers v).1, fun v _ hne heq => ?_,
      fun hx => hsign.trans hx.1, fun hx => hsign.trans hx.1⟩
    have hsame := (hothers v).2 heq
    have heven : m % 2 = 0 := by
      refine htie (magBits v) (fun hu => hne ?_) (by rwa [hsame] at heq)
      have hreal : ((value v : ℚ) : ℝ) = (value (packWord neg m) : ℚ) := by
        rw [cast_value, cast_value, hsign, hmag, ← hu, signed_eq_signed hsame]
      exact_mod_cast hreal
    unfold fracField
    rw [hmag]
    omega
  · rw [if_neg hfin] at h ⊢
    have hpos : 0 < t := lt_of_lt_of_le (by norm_num) (not_lt.1 hfin)
    rw [h]
    cases neg <;> simp [hpos] <;> rfl

theorem signed_natAbs (u : ℤ) : signed (decide (u < 0)) (u.natAbs : ℝ) = u := by
  rw [Nat.cast_natAbs]
  obtain h | h := lt_or_ge u 0
  · rw [decide_eq_true h, signed_true, abs_of_neg h]; push_cast; ring
  · rw [decide_eq_false h.not_gt, signed_false, abs_of_nonneg h]

theorem signed_mul_signed (s₁ s₂ : Bool) (t u : ℝ) : signed s₁ t * signed s₂ u = signed (s₁ != s₂) (t * u) := by
  cases s₁ <;> cases s₂ <;> simp

/-- A fraction of units with a sign, packed and rounded, is rounded. -/
theorem isRounded_packWord_roundMag (neg : Bool) (n : ℕ) {d : ℕ} (hd : 0 < d) :
    IsRounded (signed neg ((n : ℝ) / d) / 2 ^ 149) (packWord neg (roundMag n d)) :=
  (roundsToMag_roundMag n hd).isRounded neg (by positivity)

/-- Either zero is zero rounded. -/
theorem isRounded_zero (neg : Bool) : IsRounded 0 (packWord neg 0) := by
  have h := isRounded_packWord_roundMag neg 0 one_pos
  rw [show roundMag 0 1 = 0 by decide] at h
  simpa [signed] using h

/-! ### Sums -/

theorem add32_of_finite {a b : Word} (ha : isFinite a = true) (hb : isFinite b = true) : add32 a b = addFinite a b := by
  simp [add32, isNaN_of_isFinite, isInf_of_isFinite, ha, hb]

theorem value_add_value (a b : Word) : value a + value b = ((units a + units b : ℤ) : ℚ) / 2 ^ 149 := by
  unfold value
  rw [Int.cast_add, add_div]

theorem isRounded_add32 {a b : Word} (ha : isFinite a = true) (hb : isFinite b = true) :
    IsRounded ((value a + value b : ℚ) : ℝ) (add32 a b) := by
  rw [add32_of_finite ha hb, value_add_value]
  unfold addFinite
  generalize units a + units b = u
  dsimp only
  split_ifs with hu hsign
  · rw [hu, Int.cast_zero, zero_div, Rat.cast_zero]; exact isRounded_zero true
  · rw [hu, Int.cast_zero, zero_div, Rat.cast_zero]; exact isRounded_zero false
  · have h := isRounded_packWord_roundMag (decide (u < 0)) u.natAbs one_pos
    rw [Nat.cast_one, div_one, signed_natAbs] at h
    exact_mod_cast h

theorem magUnits_eq_zero {w : Word} : magUnits w = 0 ↔ magBits w = 0 := unitsOfMag_eq_zero

theorem eq_negZero_iff (w : Word) : w = negZero ↔ signBit w = true ∧ magUnits w = 0 := by
  rw [magUnits_eq_zero]
  exact ⟨by rintro rfl; decide, fun h => word_ext (h.1.trans (by decide)) (h.2.trans (by decide))⟩

theorem neg32_eq_negZero_iff (w : Word) : neg32 w = negZero ↔ w = posZero := by
  rw [eq_negZero_iff, magUnits_neg32, magUnits_eq_zero, signBit_neg32, Bool.not_eq_true']
  exact ⟨fun h => word_ext (h.1.trans (by decide)) (h.2.trans (by decide)), by rintro rfl; decide⟩

/-- A sum of value zero is +0 but for (-0) + (-0). -/
theorem add32_of_sum_zero {a b : Word} (ha : isFinite a = true) (hb : isFinite b = true) (h : value a + value b = 0) :
    add32 a b = if a = negZero ∧ b = negZero then negZero else posZero := by
  have hu : units a + units b = 0 := by
    rw [value_add_value, div_eq_zero_iff] at h
    exact_mod_cast h.resolve_right (by positivity)
  have hsigns : (signBit a && signBit b) = true ↔ a = negZero ∧ b = negZero := by
    rw [Bool.and_eq_true, eq_negZero_iff, eq_negZero_iff]
    refine ⟨fun ⟨hsa, hsb⟩ => ?_, fun h => ⟨h.1.1, h.2.1⟩⟩
    rw [units, units, if_pos hsa, if_pos hsb] at hu
    exact ⟨⟨hsa, by omega⟩, hsb, by omega⟩
  rw [add32_of_finite ha hb, addFinite]
  simp only [hu, if_true, hsigns]

/-- Settles O46: the sum is rounded once from its exact integer of units, and `sub32` is the sum with the opposite. -/
theorem addRoundsTheExactSum : Obligations.AddRoundsTheExactSum := by
  intro a b ha hb
  have hnb : isFinite (neg32 b) = true := by rwa [isFinite_neg32]
  have hneg : value a - value b = value a + value (neg32 b) := by rw [value_neg32, sub_eq_add_neg]
  refine ⟨isRounded_add32 ha hb, ?_, add32_of_sum_zero ha hb, fun h => ?_⟩
  · rw [hneg]
    exact isRounded_add32 ha hnb
  · rw [sub32, add32_of_sum_zero ha hnb (hneg ▸ h)]
    simp only [neg32_eq_negZero_iff]

/-! ### Products -/

theorem mul32_of_finite {a b : Word} (ha : isFinite a = true) (hb : isFinite b = true) : mul32 a b = mulFinite a b := by
  simp [mul32, isNaN_of_isFinite, isInf_of_isFinite, ha, hb]

theorem cast_value_mul_value (a b : Word) :
    ((value a * value b : ℚ) : ℝ) =
      signed (signBit a != signBit b) ((magUnits a * magUnits b : ℕ) / (2 ^ 149 : ℕ)) / 2 ^ 149 := by
  rw [Rat.cast_mul, cast_value, cast_value, div_mul_div_comm, signed_mul_signed]
  cases signBit a != signBit b <;> simp [magUnits_eq_unitsOfMag] <;> ring

/-- Settles O47: the product of the units is rounded once, under the exclusive-or of the signs. -/
theorem mulRoundsTheExactProduct : Obligations.MulRoundsTheExactProduct := by
  intro a b ha hb
  rw [mul32_of_finite ha hb, cast_value_mul_value, mulFinite]
  exact ⟨isRounded_packWord_roundMag _ _ (by positivity),
    signBit_packWord ((roundMag_le _ _).trans_lt (by norm_num))⟩

/-! ### Infinities -/

/-- An infinity with a finite word gives the infinity. -/
theorem add32_inf_finite {a b : Word} (ha : isInf a = true) (hb : isFinite b = true) :
    add32 a b = a ∧ add32 b a = a := by
  simp [add32, ha, isNaN_of_isInf ha, isNaN_of_isFinite hb, isInf_of_isFinite hb]

theorem add32_inf_inf {a b : Word} (ha : isInf a = true) (hb : isInf b = true) :
    add32 a b = if signBit a = signBit b then a else qNaN := by
  simp [add32, ha, hb, isNaN_of_isInf]

theorem mul32_inf_zero {a b : Word} (ha : isInf a = true) (hb : isZero b = true) :
    mul32 a b = qNaN ∧ mul32 b a = qNaN := by
  simp [mul32, ha, hb]

theorem isZero_of_isInf {w : Word} (h : isInf w = true) : isZero w = false := by
  rw [isInf_iff] at h
  rw [Bool.eq_false_iff, Ne, isZero_iff]
  omega

/-- An infinite product has the exact sign. -/
theorem mul32_inf {a b : Word} (hab : isInf a = true ∨ isInf b = true) (ha : isNaN a = false) (hb : isNaN b = false)
    (ha0 : isZero a = false) (hb0 : isZero b = false) :
    mul32 a b = if signBit a = signBit b then posInf else negInf := by
  simp [mul32, hab, ha, hb, ha0, hb0, ite_not]

/-- Settles O48: by the kinds of the two operands. -/
theorem infiniteOperands : Obligations.InfiniteOperands := by
  intro a b ha
  have hna := isNaN_of_isInf ha
  have ha0 := isZero_of_isInf ha
  refine ⟨fun hb => ?_, fun hb => ⟨add32_inf_inf ha hb, ?_⟩, mul32_inf_zero ha, fun hb hb0 => ?_⟩
  · obtain ⟨hadd, hadd'⟩ := add32_inf_finite ha hb
    exact ⟨hadd, hadd', (add32_inf_finite ha ((isFinite_neg32 b).trans hb)).1,
      (add32_inf_finite ((isInf_neg32 a).trans ha) hb).2⟩
  · rw [sub32, add32_inf_inf ha ((isInf_neg32 b).trans hb), signBit_neg32]
    cases signBit a <;> cases signBit b <;> rfl
  · rw [mul32_inf (.inl ha) hna hb ha0 hb0, mul32_inf (.inr ha) hb hna hb0 ha0]
    simp only [eq_comm, and_self]

/-! ### NaN -/

theorem isNaN_packWord_roundMag (neg : Bool) (n d : ℕ) : isNaN (packWord neg (roundMag n d)) = false :=
  isNaN_packWord (roundMag_le n d)

theorem add32_nan {a b : Word} (h : isNaN (add32 a b) = true) : add32 a b = qNaN := by
  unfold add32 at *
  split_ifs at h ⊢ with hnan ha hopp hb
  · rfl
  · rfl
  · simp [h] at hnan
  · simp [h] at hnan
  · unfold addFinite at h
    dsimp only at h
    split_ifs at h
    · exact absurd h (by decide)
    · exact absurd h (by decide)
    · rw [isNaN_packWord_roundMag] at h; cases h

theorem mul32_nan {a b : Word} (h : isNaN (mul32 a b) = true) : mul32 a b = qNaN := by
  unfold mul32 at *
  split_ifs at h ⊢ with hnan hinf hzero hsign
  · rfl
  · rfl
  · exact absurd h (by decide)
  · exact absurd h (by decide)
  · rw [mulFinite, isNaN_packWord_roundMag] at h; cases h

theorem tanhMag_le (tail : ℕ) (x : Word) : tanhMag tail x ≤ 0x7F800000 := roundMag_le _ _

theorem tanhRN_nan {a : Word} (h : isNaN (tanhRN a) = true) : tanhRN a = qNaN := by
  unfold tanhRN at *
  split_ifs at h ⊢ with hnan hsat
  · rfl
  · rw [isNaN_packWord (by norm_num)] at h; cases h
  · rw [isNaN_packWord (tanhMag_le 1 a)] at h; cases h

theorem add32_of_nan {a b : Word} (h : isNaN a = true ∨ isNaN b = true) : add32 a b = qNaN := by
  rw [add32, if_pos (by simpa using h)]

theorem mul32_of_nan {a b : Word} (h : isNaN a = true ∨ isNaN b = true) : mul32 a b = qNaN := by
  rw [mul32, if_pos (by simpa using h)]

/-- Settles O49: only the branches that answer `qNaN` answer a NaN, and a NaN operand takes the first of them. -/
theorem nanResultsAreOneWord : Obligations.NaNResultsAreOneWord := fun a b =>
  ⟨add32_nan, add32_nan, mul32_nan, tanhRN_nan,
    fun h => ⟨add32_of_nan h, add32_of_nan (by rwa [isNaN_neg32]), mul32_of_nan h⟩⟩

/-! ### Integers -/

/-- A value that is some finite word's is rounded to itself. -/
theorem RoundsToMag.exact {k m : ℕ} (hk : k < 0x7F800000) (h : RoundsToMag (unitsOfMag k) m) : m = k := by
  have hlast : unitsOfMag k ≤ (2 ^ 24 - 1) * 2 ^ 253 := by
    rw [← unitsOfMag_binade (s := 253) (q := 2 ^ 24 - 1) (by norm_num) (by norm_num)]
    exact unitsOfMag_strictMono.monotone (by omega)
  have hlt : (unitsOfMag k : ℝ) < (2 ^ 25 - 1) * 2 ^ 252 :=
    lt_of_le_of_lt (by exact_mod_cast hlast : (unitsOfMag k : ℝ) ≤ ((2 ^ 24 - 1) * 2 ^ 253 : ℕ)) (by norm_num)
  rw [RoundsToMag, if_pos hlt] at h
  obtain ⟨-, hnear, -⟩ := h
  have hzero := hnear k
  rw [sub_self, abs_zero, abs_nonpos_iff, sub_eq_zero, Nat.cast_inj] at hzero
  exact unitsOfMag_strictMono.injective hzero.symm

/-- Every integer below 2^24 is the value of a finite word. -/
theorem exists_mag_of_lt {n : ℕ} (h : n < 2 ^ 24) : ∃ k < 0x7F800000, unitsOfMag k = n * 2 ^ 149 := by
  obtain rfl | hn := eq_or_ne n 0
  · exact ⟨0, by norm_num, rfl⟩
  · have hl : Nat.log2 n < 24 := (Nat.log2_lt hn).2 h
    have hlo : 2 ^ 23 ≤ n * 2 ^ (23 - Nat.log2 n) :=
      calc 2 ^ 23 = 2 ^ Nat.log2 n * 2 ^ (23 - Nat.log2 n) := by rw [← pow_add]; congr 1; omega
        _ ≤ n * 2 ^ (23 - Nat.log2 n) := Nat.mul_le_mul_right _ (Nat.log2_self_le hn)
    have hhi : n * 2 ^ (23 - Nat.log2 n) < 2 ^ 24 :=
      calc n * 2 ^ (23 - Nat.log2 n) < 2 ^ (Nat.log2 n + 1) * 2 ^ (23 - Nat.log2 n) :=
            Nat.mul_lt_mul_of_pos_right Nat.lt_log2_self (by positivity)
        _ = 2 ^ 24 := by rw [← pow_add]; congr 1; omega
    refine ⟨(126 + Nat.log2 n) * 2 ^ 23 + n * 2 ^ (23 - Nat.log2 n), by omega, ?_⟩
    rw [unitsOfMag_binade hhi.le (.inr hlo), mul_assoc, ← pow_add]
    congr 2
    omega

theorem value_packWord_false {k : ℕ} (hk : k < 2 ^ 31) : value (packWord false k) = (unitsOfMag k : ℚ) / 2 ^ 149 := by
  have hunits : units (packWord false k) = unitsOfMag k := by
    rw [units, signBit_packWord hk, magUnits_eq_unitsOfMag, magBits_packWord hk, if_neg Bool.false_ne_true]
  rw [value, hunits]
  exact congrArg (· / _) (Int.cast_natCast _)

/-- Settles O50: an integer below 2^24 is some word's value, so rounding finds that word; floor and ceiling are integer
divisions of the units. -/
theorem integerConversionsAreExact : Obligations.IntegerConversionsAreExact := by
  refine ⟨fun n hn => ?_, fun x _ => ?_⟩
  · obtain ⟨k, hk, hval⟩ := exists_mag_of_lt hn
    have hm : roundMag (n * 2 ^ 149) 1 = k := by
      have hround := roundsToMag_roundMag (n * 2 ^ 149) one_pos
      rw [Nat.cast_one, div_one] at hround
      exact RoundsToMag.exact hk (hval ▸ hround)
    have hk' : k < 2 ^ 31 := by omega
    have hword : toF32 n = packWord false k := congrArg (packWord false) hm
    refine hword ▸ ⟨(isFinite_iff _).2 (by rwa [magBits_packWord hk']), ?_⟩
    rw [value_packWord_false hk', hval, Nat.cast_mul, Nat.cast_pow, Nat.cast_two]
    exact mul_div_cancel_right₀ _ (by positivity)
  · have hval : value x = (units x : ℚ) / (2 ^ 149 : ℕ) := by rw [value, Nat.cast_pow, Nat.cast_two]
    rw [hval, Rat.floor_intCast_div_natCast, Rat.ceil_intCast_div_natCast]
    exact ⟨rfl, rfl⟩

/-! ### Constants -/

/-- A positive decimal, written as a fraction, is rounded by `f32`. -/
theorem isRounded_of_f32 {x : ℝ} {w : Word} (n d : ℕ) (hd : 0 < d) (hx : (n : ℝ) / d = x) (hw : f32 false n d = w) :
    IsRounded x w := by
  have h := isRounded_packWord_roundMag false (n * 2 ^ 149) hd
  rw [signed_false, Nat.cast_mul, Nat.cast_pow, Nat.cast_two, mul_div_right_comm,
    mul_div_cancel_right₀ _ (by positivity), hx] at h
  exact hw ▸ h

/-- Settles O51: each word is `f32` of its decimal. -/
theorem constantsAreNearest : Obligations.ConstantsAreNearest :=
  ⟨isRounded_of_f32 84 100 (by norm_num) (by norm_num) (by decide +kernel),
    isRounded_of_f32 7 10 (by norm_num) (by norm_num) (by decide +kernel),
    isRounded_of_f32 95 100 (by norm_num) (by norm_num) (by decide +kernel),
    isRounded_of_f32 1 100 (by norm_num) (by norm_num) (by decide +kernel),
    isRounded_of_f32 19 10 (by norm_num) (by norm_num) (by decide +kernel),
    isRounded_of_f32 1 10 (by norm_num) (by norm_num) (by decide +kernel),
    isRounded_of_f32 1 4 (by norm_num) (by norm_num) (by decide +kernel),
    isRounded_of_f32 1 2 (by norm_num) (by norm_num) (by decide +kernel),
    isRounded_of_f32 1 1 (by norm_num) (by norm_num) (by decide +kernel),
    rfl, rfl, rfl, rfl, rfl, rfl, rfl, rfl, rfl, rfl⟩

/-! ### tanhRN: its shape -/

theorem tanhMag_neg32 (tail : ℕ) (x : Word) : tanhMag tail (neg32 x) = tanhMag tail x := by
  unfold tanhMag expBound
  rw [magUnits_neg32]

theorem tanhRN_neg32 {x : Word} (hx : isNaN x = false) : tanhRN (neg32 x) = neg32 (tanhRN x) := by
  unfold tanhRN
  rw [isNaN_neg32, magBits_neg32, signBit_neg32, tanhMag_neg32, hx, if_neg Bool.false_ne_true,
    if_neg Bool.false_ne_true]
  split_ifs
  · exact (neg32_packWord (by norm_num)).symm
  · exact (neg32_packWord ((tanhMag_le 1 x).trans_lt (by norm_num))).symm

/-- Settles O54: the magnitude of the result depends on that of the operand only; the special words are evaluated. -/
theorem tanhShape : Obligations.TanhShape := by
  have hzero : tanhRN posZero = posZero := by decide +kernel
  have hinf : tanhRN posInf = 0x3F800000#32 := by decide
  refine ⟨fun x hx => tanhRN_neg32 hx, hzero, ?_, hinf, ?_, fun x hx => ?_⟩
  · rw [show negZero = neg32 posZero from rfl, tanhRN_neg32 (by decide), hzero]
  · rw [show negInf = neg32 posInf from rfl, tanhRN_neg32 (by decide), hinf]; rfl
  · rw [tanhRN, if_pos hx]; rfl

/-! ### tanhRN: its rounding -/

/-- Horner's scheme sums the exponential series of a/b: k terms, and the next one `n/d` times. -/
theorem expHorner_eq {a b : ℕ} (hb : 0 < b) (k : ℕ) : ∀ (n : ℕ) {d : ℕ}, 0 < d →
    0 < (expHorner a b k n d).2 ∧ ((expHorner a b k n d).1 : ℝ) / (expHorner a b k n d).2 =
      ∑ i ∈ Finset.range k, (a / b : ℝ) ^ i / i.factorial + n / d * ((a / b : ℝ) ^ k / k.factorial) := by
  induction k with
  | zero => intro n d hd; simpa [expHorner] using hd
  | succ k ih =>
    intro n d hd
    obtain ⟨hpos, heq⟩ := ih ((k + 1) * b * d + a * n) (d := (k + 1) * b * d) (by positivity)
    refine ⟨hpos, heq.trans ?_⟩
    rw [Finset.sum_range_succ, add_assoc, add_right_inj, Nat.factorial_succ]
    have ha : (a : ℝ) = a / b * b := (div_mul_cancel₀ _ (by positivity)).symm
    push_cast
    generalize (a / b : ℝ) = z at *
    rw [ha]
    field_simp
    ring

/-- tanh y in terms of e^(2y). -/
noncomputable def tanhOfExp (E : ℝ) : ℝ := (E - 1) / (E + 1)

theorem tanh_eq_tanhOfExp (y : ℝ) : Real.tanh y = tanhOfExp (Real.exp (2 * y)) := by
  have := Real.exp_pos y
  rw [Real.tanh_eq, tanhOfExp, Real.exp_neg, two_mul, Real.exp_add]
  field_simp

theorem tanhOfExp_le {E F : ℝ} (hE : 0 ≤ E) (h : E ≤ F) : tanhOfExp E ≤ tanhOfExp F := by
  rw [tanhOfExp, tanhOfExp, div_le_div_iff₀ (by linarith) (by linarith)]
  nlinarith

theorem tanh_le_tanh {y z : ℝ} (h : y ≤ z) : Real.tanh y ≤ Real.tanh z := by
  rw [tanh_eq_tanhOfExp, tanh_eq_tanhOfExp]
  exact tanhOfExp_le (Real.exp_nonneg _) (Real.exp_le_exp.2 (by linarith))

/-- What `expBound` is worth, in terms of 2|x| = magUnits x / 2^148. -/
theorem expBound_eq (tail : ℕ) (x : Word) :
    0 < (expBound tail x).2 ∧ ((expBound tail x).1 : ℝ) / (expBound tail x).2 =
      ∑ i ∈ Finset.range 128, (magUnits x / 2 ^ 148 : ℝ) ^ i / i.factorial +
        tail * ((magUnits x / 2 ^ 148 : ℝ) ^ 128 / Nat.factorial 128) := by
  have h := expHorner_eq (a := magUnits x) (b := 2 ^ 148) (by positivity) expTerms tail one_pos
  rw [Nat.cast_one, div_one, Nat.cast_pow, Nat.cast_two] at h
  exact h

/-- With its tail taken as 1, the series is below the exponential. -/
theorem expBound_one_le (x : Word) : ((expBound 1 x).1 : ℝ) / (expBound 1 x).2 ≤ Real.exp (magUnits x / 2 ^ 148) := by
  rw [(expBound_eq 1 x).2, Nat.cast_one, one_mul, ← Finset.sum_range_succ]
  exact Real.sum_le_exp_of_nonneg (by positivity) 129

/-- With its tail taken as 2, the series is above the exponential while 2|x| is at most 64. -/
theorem le_expBound_two {x : Word} (h : (magUnits x / 2 ^ 148 : ℝ) ≤ 64) :
    Real.exp (magUnits x / 2 ^ 148) ≤ ((expBound 2 x).1 : ℝ) / (expBound 2 x).2 := by
  rw [(expBound_eq 2 x).2]
  have hz : (0 : ℝ) ≤ magUnits x / 2 ^ 148 := by positivity
  generalize (magUnits x / 2 ^ 148 : ℝ) = z at *
  have hnorm : ‖(z : ℂ)‖ = z := by rw [Complex.norm_real, Real.norm_of_nonneg hz]
  have hseries := Complex.exp_bound' (x := z) (n := 128) (by rw [hnorm]; norm_num; linarith)
  have hreal : Complex.exp z - ∑ i ∈ Finset.range 128, (z : ℂ) ^ i / i.factorial =
      ((Real.exp z - ∑ i ∈ Finset.range 128, z ^ i / i.factorial : ℝ) : ℂ) := by push_cast; rfl
  rw [hreal, hnorm, Complex.norm_real, Real.norm_eq_abs] at hseries
  have := (abs_le.1 hseries).2
  rw [Nat.cast_two]
  linarith

theorem one_le_expBound (tail : ℕ) (x : Word) : (1 : ℝ) ≤ ((expBound tail x).1 : ℝ) / (expBound tail x).2 := by
  rw [(expBound_eq tail x).2, Finset.sum_range_succ']
  have : (0 : ℝ) ≤ ∑ i ∈ Finset.range 127, (magUnits x / 2 ^ 148 : ℝ) ^ (i + 1) / (i + 1).factorial :=
    Finset.sum_nonneg fun i _ => by positivity
  have : (0 : ℝ) ≤ tail * ((magUnits x / 2 ^ 148 : ℝ) ^ 128 / Nat.factorial 128) := by positivity
  rw [pow_zero, Nat.factorial_zero, Nat.cast_one, div_one]
  linarith

/-- `tanhMag` rounds (E - 1)/(E + 1) of its bound E. -/
theorem roundsToMag_tanhMag (tail : ℕ) (x : Word) :
    RoundsToMag (tanhOfExp (((expBound tail x).1 : ℝ) / (expBound tail x).2) * 2 ^ 149) (tanhMag tail x) := by
  have hone := one_le_expBound tail x
  obtain ⟨hpos, -⟩ := expBound_eq tail x
  unfold tanhMag
  generalize expBound tail x = p at *
  obtain ⟨n, d⟩ := p
  dsimp only at *
  have hd : (0 : ℝ) < d := by exact_mod_cast hpos
  have hle : d ≤ n := by rw [one_le_div hd] at hone; exact_mod_cast hone
  have hfrac : tanhOfExp ((n : ℝ) / d) * 2 ^ 149 = ((n - d) * 2 ^ 149 : ℕ) / (n + d : ℕ) := by
    rw [tanhOfExp, Nat.cast_mul, Nat.cast_sub hle, Nat.cast_add, Nat.cast_pow, Nat.cast_two]
    field_simp
  rw [hfrac]
  exact roundsToMag_roundMag _ (by omega)

/-- Below the saturation word, where the two bounds round to one word, so does tanh between them. -/
theorem roundsToMag_tanh_of_resolved {x : Word} (hsat : magBits x < tanhSaturation) (hres : tanhResolved x = true) :
    RoundsToMag (Real.tanh (magUnits x / 2 ^ 149) * 2 ^ 149) (tanhMag 1 x) := by
  have harg : (2 * (magUnits x / 2 ^ 149) : ℝ) = magUnits x / 2 ^ 148 := by ring
  have hsmall : (magUnits x / 2 ^ 148 : ℝ) ≤ 64 := by
    have hle : magUnits x ≤ unitsOfMag tanhSaturation := unitsOfMag_strictMono.monotone hsat.le
    rw [div_le_iff₀ (by positivity)]
    exact_mod_cast hle.trans (by decide +kernel)
  have hupper := roundsToMag_tanhMag 2 x
  rw [← of_decide_eq_true hres] at hupper
  rw [tanh_eq_tanhOfExp, harg]
  refine (roundsToMag_tanhMag 1 x).between hupper ?_ ?_ <;> refine mul_le_mul_of_nonneg_right ?_ (by positivity)
  · exact tanhOfExp_le (zero_le_one.trans (one_le_expBound 1 x)) (expBound_one_le x)
  · exact tanhOfExp_le (Real.exp_nonneg _) (le_expBound_two hsmall)

/-- The least positive word whose tanhRN is 1 (R134). -/
def satWord : Word := 0x41102CB4#32

/-- From the saturation word up, tanh is between the lower bound at that word and 1, which both round to 1. -/
theorem roundsToMag_tanh_of_saturated {x : Word} (hsat : tanhSaturation ≤ magBits x) :
    RoundsToMag (Real.tanh (magUnits x / 2 ^ 149) * 2 ^ 149) 0x3F800000 := by
  have hle : magUnits satWord ≤ magUnits x := unitsOfMag_strictMono.monotone hsat
  have hlower := roundsToMag_tanhMag 1 satWord
  have hupper := roundsToMag_roundMag (2 ^ 149) one_pos
  rw [show tanhMag 1 satWord = 0x3F800000 by decide +kernel] at hlower
  rw [show roundMag (2 ^ 149) 1 = 0x3F800000 by decide +kernel, Nat.cast_one, div_one, Nat.cast_pow,
    Nat.cast_two] at hupper
  refine hlower.between hupper ?_ ?_
  · rw [tanh_eq_tanhOfExp]
    refine mul_le_mul_of_nonneg_right (tanhOfExp_le (zero_le_one.trans (one_le_expBound 1 satWord)) ?_) (by positivity)
    calc ((expBound 1 satWord).1 : ℝ) / (expBound 1 satWord).2
      _ ≤ Real.exp (magUnits satWord / 2 ^ 148) := expBound_one_le _
      _ ≤ Real.exp (magUnits x / 2 ^ 148) := by gcongr
      _ = Real.exp (2 * (magUnits x / 2 ^ 149)) := by congr 1; ring
  · exact mul_le_of_le_one_left (by positivity) (Real.tanh_lt_one _).le

/-- Settles O53: tanh of the magnitude is rounded in either branch, and tanh is odd. -/
theorem tanhIsCorrectlyRoundedWhereResolved : Obligations.TanhIsCorrectlyRoundedWhereResolved := by
  intro x hx hres
  have htanh : Real.tanh ((value x : ℚ) : ℝ) =
      signed (signBit x) (Real.tanh (magUnits x / 2 ^ 149) * 2 ^ 149) / 2 ^ 149 := by
    rw [cast_value, magUnits_eq_unitsOfMag]
    cases signBit x
    · simp
    · simp [neg_div, Real.tanh_neg]
  have hnonneg : 0 ≤ Real.tanh (magUnits x / 2 ^ 149) * 2 ^ 149 := by
    have hzero : Real.tanh 0 ≤ Real.tanh (magUnits x / 2 ^ 149) := tanh_le_tanh (by positivity)
    rw [Real.tanh_zero] at hzero
    positivity
  rw [htanh, tanhRN, isNaN_of_isFinite hx, if_neg Bool.false_ne_true]
  split_ifs with hsat
  · exact (roundsToMag_tanh_of_saturated hsat).isRounded _ hnonneg
  · exact (roundsToMag_tanh_of_resolved (not_le.1 hsat) hres).isRounded _ hnonneg

end Sys2Proof.Machine
end

section
/-! PROOFS. The state of 10_state.md (family 10_state.md: O7, O9, O10, O21, O28, O39). `exec_effect` says once what any
command can do and `takeWord_next` what a port that takes a word can do; the statements about commands and steps follow
from them. The invariant is restated field by field (`Params.InDomain`, `Stage.InRange`, `PortInOrder`, `InOrder`), each
with an equivalence to the model's own check. -/

namespace Sys2Proof.Machine

/-! ### Lengths made from parameters (R111, R123) -/

theorem roundsToMag_unitsOfMag {k : ℕ} (hk : k < 0x7F800000) : RoundsToMag (unitsOfMag k) k := by
  have h := roundsToMag_roundMag (unitsOfMag k) one_pos
  rw [Nat.cast_one, div_one] at h
  rwa [h.exact hk] at h

/-- What is at most the value of some finite word is rounded to at most that word. -/
theorem roundMag_le_of_le {n d k : ℕ} (hd : 0 < d) (hk : k < 0x7F800000) (h : n ≤ unitsOfMag k * d) :
    roundMag n d ≤ k := by
  have hle : (n : ℝ) / d ≤ unitsOfMag k := (div_le_iff₀ (by exact_mod_cast hd)).2 (by exact_mod_cast h)
  have hround := roundsToMag_roundMag n hd
  have hself := roundsToMag_unitsOfMag hk
  unfold RoundsToMag at hround hself
  split_ifs at hround with ht
  · obtain ⟨-, hnear, -⟩ := hround
    by_contra hlt
    have hu : (unitsOfMag k : ℝ) < unitsOfMag (roundMag n d) := by
      exact_mod_cast unitsOfMag_strictMono (not_le.1 hlt)
    have := hnear k
    rw [abs_of_nonpos (by linarith), abs_of_nonpos (by linarith)] at this
    linarith
  · rw [if_neg fun h => ht (hle.trans_lt h)] at hself
    omega

/-- What is at least the value of some word is rounded to at least that word. -/
theorem le_roundMag_of_le {n d k : ℕ} (hd : 0 < d) (hk : k < 0x7F800000) (h : unitsOfMag k * d ≤ n) :
    k ≤ roundMag n d := by
  have hle : (unitsOfMag k : ℝ) ≤ n / d := (le_div_iff₀ (by exact_mod_cast hd)).2 (by exact_mod_cast h)
  have hround := roundsToMag_roundMag n hd
  unfold RoundsToMag at hround
  split_ifs at hround
  · obtain ⟨-, hnear, -⟩ := hround
    by_contra hlt
    have hu : (unitsOfMag (roundMag n d) : ℝ) < unitsOfMag k := by
      exact_mod_cast unitsOfMag_strictMono (not_le.1 hlt)
    have := hnear k
    rw [abs_of_nonneg (by linarith), abs_of_nonneg (by linarith)] at this
    linarith
  · omega

/-- An integer below 2^24 is converted exactly (R16), here by its bits. -/
theorem exists_toF32_eq {n : ℕ} (hn : n < 2 ^ 24) :
    ∃ k < 0x7F800000, unitsOfMag k = n * 2 ^ 149 ∧ toF32 n = packWord false k := by
  obtain ⟨k, hk, hval⟩ := exists_mag_of_lt hn
  have hmag : roundMag (n * 2 ^ 149) 1 = k :=
    le_antisymm (roundMag_le_of_le one_pos hk (by rw [hval, mul_one]))
      (le_roundMag_of_le one_pos hk (by rw [hval, mul_one]))
  exact ⟨k, hk, hval, congrArg (packWord false) hmag⟩

theorem isFinite_packWord {neg : Bool} {k : ℕ} (hk : k < 0x7F800000) : isFinite (packWord neg k) = true := by
  rwa [isFinite_iff, magBits_packWord (by omega)]

theorem magUnits_packWord {neg : Bool} {k : ℕ} (hk : k < 2 ^ 31) : magUnits (packWord neg k) = unitsOfMag k := by
  rw [magUnits_eq_unitsOfMag, magBits_packWord hk]

theorem units_of_nonneg {w : Word} (hs : signBit w = false) : units w = magUnits w := by
  rw [units, hs, if_neg Bool.false_ne_true]

theorem units_roundMag (n d : ℕ) : units (packWord false (roundMag n d)) = unitsOfMag (roundMag n d) := by
  have hm : roundMag n d < 2 ^ 31 := (roundMag_le n d).trans_lt (by norm_num)
  rw [units_of_nonneg (signBit_packWord hm), magUnits_packWord hm]

theorem toNat_floorI_roundMag (n d : ℕ) :
    (floorI (packWord false (roundMag n d))).toNat = unitsOfMag (roundMag n d) / 2 ^ 149 := by
  rw [floorI, units_roundMag]
  omega

/-- The product of two finite words without a sign. -/
theorem mul32_of_nonneg {a b : Word} (ha : isFinite a = true) (hb : isFinite b = true) (hsa : signBit a = false)
    (hsb : signBit b = false) : mul32 a b = packWord false (roundMag (magUnits a * magUnits b) (2 ^ 149)) := by
  rw [mul32_of_finite ha hb, mulFinite, hsa, hsb, bne_self_eq_false]

theorem inBounds_iff (x lo hi : Word) :
    inBounds x lo hi = true ↔ isFinite x = true ∧ x ≠ negZero ∧ units lo ≤ units x ∧ units x ≤ units hi := by
  simp [inBounds, and_assoc]

/-- A parameter inside bounds that are not negative has no sign. -/
theorem inBounds_nonneg {x lo hi : Word} (hlo : 0 ≤ units lo) (h : inBounds x lo hi = true) :
    isFinite x = true ∧ signBit x = false ∧ units lo ≤ magUnits x ∧ magUnits x ≤ units hi := by
  obtain ⟨hfin, hneg, hge, hle⟩ := (inBounds_iff x lo hi).1 h
  have hs : signBit x = false := by
    rw [Bool.eq_false_iff]
    intro hs
    have hge : units lo ≤ -magUnits x := hge.trans_eq (if_pos hs)
    exact hneg ((eq_negZero_iff x).2 ⟨hs, by omega⟩)
  rw [units_of_nonneg hs] at hge hle
  exact ⟨hfin, hs, hge, hle⟩

/-- From the second normal word on, the word below twice a value is still at least f32(1.9) times that value. -/
theorem delayTimeMax_mul_le {k : ℕ} (hk : 2 ^ 23 < k) :
    magUnits delayTimeMax * unitsOfMag k ≤ unitsOfMag (k + 2 ^ 23 - 1) * 2 ^ 149 ∧
      unitsOfMag (k + 2 ^ 23 - 1) < 2 * unitsOfMag k := by
  obtain ⟨s, q, rfl, hlo, hhi⟩ : ∃ s q, k = s * 2 ^ 23 + q ∧ 2 ^ 23 < q ∧ q ≤ 2 ^ 24 :=
    ⟨(k - 1) / 2 ^ 23 - 1, k - ((k - 1) / 2 ^ 23 - 1) * 2 ^ 23, by omega, by omega, by omega⟩
  rw [show s * 2 ^ 23 + q + 2 ^ 23 - 1 = (s + 1) * 2 ^ 23 + (q - 1) by omega,
    unitsOfMag_binade hhi (.inr hlo.le), unitsOfMag_binade (by omega) (by omega),
    show magUnits delayTimeMax = 0xF33333 * 2 ^ 126 by decide]
  constructor
  · calc 0xF33333 * 2 ^ 126 * (q * 2 ^ s) = 0xF33333 * q * (2 ^ s * 2 ^ 126) := by ring
      _ ≤ 2 ^ 24 * (q - 1) * (2 ^ s * 2 ^ 126) := Nat.mul_le_mul_right _ (by omega)
      _ = (q - 1) * 2 ^ (s + 1) * 2 ^ 149 := by ring
  · calc (q - 1) * 2 ^ (s + 1) < q * 2 ^ (s + 1) := Nat.mul_lt_mul_of_pos_right (by omega) (by positivity)
      _ = 2 * (q * 2 ^ s) := by ring

/-- The delay length is below the capacity 2 × FS (R112). -/
theorem delayLength_lt {fs : ℕ} {t : Word} (hpos : 1 ≤ fs) (hle : fs ≤ 4194304)
    (ht : inBounds t delayTimeMin delayTimeMax = true) : delayLength fs t < 2 * fs := by
  obtain ⟨hfin, hs, -, hmax⟩ := inBounds_nonneg (by decide) ht
  obtain ⟨k, hk, hval, hfs⟩ := exists_toF32_eq (n := fs) (by omega)
  have hklo : 2 ^ 23 < k := by
    rw [← unitsOfMag_strictMono.lt_iff_lt, hval]
    exact lt_of_lt_of_le (by decide) (Nat.le_mul_of_pos_left _ hpos)
  have hkhi : k + 2 ^ 23 - 1 < 0x7F800000 := by
    have : k ≤ 0x4A800000 := by
      rw [← unitsOfMag_strictMono.le_iff_le, hval, show unitsOfMag 0x4A800000 = 4194304 * 2 ^ 149 by decide]
      exact Nat.mul_le_mul_right _ hle
    omega
  obtain ⟨hprod, hbelow⟩ := delayTimeMax_mul_le hklo
  have hround : roundMag (magUnits t * unitsOfMag k) (2 ^ 149) ≤ k + 2 ^ 23 - 1 := by
    refine roundMag_le_of_le (by positivity) hkhi (le_trans (Nat.mul_le_mul_right _ ?_) hprod)
    exact_mod_cast hmax.trans_eq (units_of_nonneg (by decide))
  have hlt : unitsOfMag (roundMag (magUnits t * unitsOfMag k) (2 ^ 149)) < 2 * fs * 2 ^ 149 := by
    rw [mul_assoc, ← hval]
    exact (unitsOfMag_strictMono.monotone hround).trans_lt hbelow
  rw [delayLength, hfs, mul32_of_nonneg hfin (isFinite_packWord hk) hs (signBit_packWord (by omega)),
    magUnits_packWord (by omega), toNat_floorI_roundMag]
  exact Nat.div_lt_of_lt_mul (hlt.trans_eq (mul_comm _ _))

/-- The effective length of a comb is from 1 to its base length (R123). -/
theorem combLength_mem {len : ℕ} {size : Word} (hpos : 1 ≤ len) (hle : len ≤ 65535)
    (hsize : inBounds size reverbSizeMin one32 = true) : 1 ≤ combLength len size ∧ combLength len size ≤ len := by
  obtain ⟨hfin, hs, hmin, hmax⟩ := inBounds_nonneg (by decide) hsize
  rw [show units reverbSizeMin = (unitsOfMag 0x3DCCCCCD : ℕ) by decide, Int.ofNat_le] at hmin
  rw [show units one32 = (2 ^ 149 : ℕ) by decide, Int.ofNat_le] at hmax
  obtain ⟨k, hk, hval, hlen⟩ := exists_toF32_eq (n := len) (by omega)
  have hlo : 0x3DCCCCCD ≤ roundMag (unitsOfMag k * magUnits size) (2 ^ 149) := by
    refine le_roundMag_of_le (by positivity) (by norm_num) ?_
    rw [hval, mul_comm]
    exact Nat.mul_le_mul (Nat.le_mul_of_pos_left _ hpos) hmin
  have hhi : roundMag (unitsOfMag k * magUnits size) (2 ^ 149) ≤ k :=
    roundMag_le_of_le (by positivity) hk (Nat.mul_le_mul_left _ hmax)
  have hunitsLo := unitsOfMag_strictMono.monotone hlo
  have hunitsHi := (unitsOfMag_strictMono.monotone hhi).trans_eq hval
  have hsome : 0 < unitsOfMag 0x3DCCCCCD := by decide
  rw [combLength, ceilI, hlen, mul32_of_nonneg (isFinite_packWord hk) hfin (signBit_packWord (by omega)) hs,
    magUnits_packWord (by omega), units_roundMag]
  omega

/-! ### Clamps keep the domains (R21, R78) -/

theorem natAbs_units (w : Word) : (units w).natAbs = magUnits w := by
  unfold units
  split_ifs <;> omega

/-- Only finite words have fewer units than an infinity. -/
theorem isFinite_iff_magUnits (w : Word) : isFinite w = true ↔ magUnits w < unitsOfMag 0x7F800000 := by
  rw [isFinite_iff, magUnits_eq_unitsOfMag, unitsOfMag_strictMono.lt_iff_lt]

/-- A word between two finite words in value is finite. -/
theorem isFinite_of_units_between {x lo hi : Word} (hlo : isFinite lo = true) (hhi : isFinite hi = true)
    (hge : units lo ≤ units x) (hle : units x ≤ units hi) : isFinite x = true := by
  rw [isFinite_iff_magUnits, ← natAbs_units] at *
  omega

/-- A clamp to bounds that are inside themselves answers a value inside them, whatever its operand is. -/
theorem inBounds_clampF (x : Word) {lo hi : Word} (hlo : inBounds lo lo hi = true) (hhi : inBounds hi lo hi = true) :
    inBounds (clampF x lo hi) lo hi = true := by
  unfold clampF
  split_ifs with hnan hbelow habove hzero
  · exact hlo
  · exact hlo
  · exact hhi
  · rw [hzero, not_lt] at hbelow habove
    exact (inBounds_iff _ _ _).2 ⟨by decide, by decide, hbelow, habove⟩
  · rw [inBounds_iff] at *
    rw [not_lt] at hbelow habove
    exact ⟨isFinite_of_units_between hlo.1 hhi.1 hbelow habove, hzero, hbelow, habove⟩

theorem clampI_mem (u : ℕ) : 1 ≤ clampI u ∧ clampI u ≤ 16 := by
  unfold clampI
  omega

/-- Every parameter register inside its domain (R21), register by register. -/
structure Params.InDomain (P : Params) : Prop where
  bitDepth : 1 ≤ P.bitDepth ∧ P.bitDepth ≤ 16
  sampleRateDiv : 1 ≤ P.sampleRateDiv ∧ P.sampleRateDiv ≤ 16
  delayTime : inBounds P.delayTime delayTimeMin delayTimeMax = true
  delayFeedback : inBounds P.delayFeedback posZero delayFeedbackMax = true
  delayMix : inBounds P.delayMix posZero one32 = true
  reverbMix : inBounds P.reverbMix posZero one32 = true
  reverbSize : inBounds P.reverbSize reverbSizeMin one32 = true

theorem Params.ok_iff (P : Params) : P.ok = true ↔ P.InDomain := by
  simp only [Params.ok, Bool.and_eq_true, decide_eq_true_eq]
  exact ⟨fun ⟨⟨⟨⟨⟨⟨⟨⟨hb, hb'⟩, hr⟩, hr'⟩, ht⟩, hf⟩, hm⟩, hv⟩, hz⟩ => ⟨⟨hb, hb'⟩, ⟨hr, hr'⟩, ht, hf, hm, hv, hz⟩,
    fun ⟨⟨hb, hb'⟩, ⟨hr, hr'⟩, ht, hf, hm, hv, hz⟩ => ⟨⟨⟨⟨⟨⟨⟨⟨hb, hb'⟩, hr⟩, hr'⟩, ht⟩, hf⟩, hm⟩, hv⟩, hz⟩⟩

/-! ### What a command can do -/

/-- Everything command `i`, run on port `p`, can do between `s` and `t`: to the parameters, to the stage state and to the
response queue of `p`. All else of the state stays. -/
def CommandEffect (p : Port) (i : Instr) (s t : State) : Prop :=
  ∃ P g o, t = ((s.setParams P).setStage g).setPort p { s.port p with resp := (s.port p).resp ++ o } ∧
    o.length = responses i ∧ (s.params.InDomain → P.InDomain) ∧
    (g = s.stage ∨ indicesInRange s.cfg s.stage = true ∧ ∃ B x, g = (sampleStep s.cfg s.params B x s.stage).2)

theorem commandEffect_nop (p : Port) (s : State) : CommandEffect p .nop s s := by
  refine ⟨s.params, s.stage, [], ?_, rfl, id, .inl rfl⟩
  rw [List.append_nil]
  exact (s.setPort_self p).symm

theorem commandEffect_writeParams {p : Port} {i : Instr} {s t : State} {P : Params} (hi : responses i = 0)
    (h : writeParams P s = .next t) (hP : s.params.InDomain → P.InDomain) : CommandEffect p i s t := by
  cases h
  refine ⟨P, s.stage, [], ?_, hi.symm, hP, .inl rfl⟩
  rw [List.append_nil]
  exact ((s.setParams P).setPort_self p).symm.trans (by rw [State.setParams_port]; rfl)

theorem commandEffect_answer {i : Instr} {s t : State} {w : Word} (hi : responses i = 1)
    (h : answer w s = .next t) : CommandEffect .ctrl i s t := by
  cases h
  exact ⟨s.params, s.stage, [w], rfl, hi.symm, id, .inl rfl⟩

theorem commandEffect_sample {i : Instr} {s t : State} {B : Bool} {wl wr : Word} (hi : responses i = 2)
    (h : sample B wl wr s = .next t) : CommandEffect .smpl i s t := by
  obtain ⟨hr, rfl⟩ := sample_inv h
  exact ⟨s.params, _, _, rfl, hi.symm, id, .inr ⟨hr, B, _, rfl⟩⟩

/-- A command that answers a next state, on a port that accepts it, has one of the effects of `CommandEffect`. -/
theorem exec_effect {p : Port} {i : Instr} {s t : State} (hp : i.wellFormed p = true) (h : exec i s = .next t) :
    CommandEffect p i s t := by
  cases i with
  | nop => cases h; exact commandEffect_nop p s
  | pwrBitDepth v => exact commandEffect_writeParams rfl h fun hs => { hs with bitDepth := clampI_mem _ }
  | pwrSampleRateDiv v => exact commandEffect_writeParams rfl h fun hs => { hs with sampleRateDiv := clampI_mem _ }
  | pwrDelayTime v =>
    exact commandEffect_writeParams rfl h fun hs => { hs with delayTime := inBounds_clampF v (by decide) (by decide) }
  | pwrDelayFeedback v =>
    exact commandEffect_writeParams rfl h fun hs =>
      { hs with delayFeedback := inBounds_clampF v (by decide) (by decide) }
  | pwrDelayMix v =>
    exact commandEffect_writeParams rfl h fun hs => { hs with delayMix := inBounds_clampF v (by decide) (by decide) }
  | pwrReverbMix v =>
    exact commandEffect_writeParams rfl h fun hs => { hs with reverbMix := inBounds_clampF v (by decide) (by decide) }
  | pwrReverbSize v =>
    exact commandEffect_writeParams rfl h fun hs => { hs with reverbSize := inBounds_clampF v (by decide) (by decide) }
  | prdBitDepth | prdSampleRateDiv | prdDelayTime | prdDelayFeedback | prdDelayMix | prdReverbMix | prdReverbSize
  | cfgrdFs | cfgrdDcap | cfgrdCombLen0 | cfgrdCombLen1 | cfgrdCombLen2 | cfgrdCombLen3 | cfgrdApLen | cfgrdApGain
  | cfgrdStatus =>
    obtain rfl : p = .ctrl := of_decide_eq_true hp
    exact commandEffect_answer rfl h
  | smp wl wr | smpB wl wr =>
    obtain rfl : p = .smpl := of_decide_eq_true hp
    exact commandEffect_sample rfl h

/-- Some port accepts every command (R68). -/
theorem exists_wellFormed (i : Instr) : ∃ p, i.wellFormed p = true := by
  cases i with
  | smp wl wr | smpB wl wr => exact ⟨.smpl, rfl⟩
  | _ => exact ⟨.ctrl, rfl⟩

/-- Settles O28: a command writes clamped values or none. -/
theorem parametersStayInTheirDomains : Obligations.ParametersStayInTheirDomains := by
  intro i s t hs h
  obtain ⟨p, hp⟩ := exists_wellFormed i
  obtain ⟨P, g, o, rfl, -, hP, -⟩ := exec_effect hp h
  rw [Params.ok_iff] at hs ⊢
  simpa using hP hs

theorem exec_status {i : Instr} {s t : State} (h : exec i s = .next t) : t.status = s.status := by
  obtain ⟨p, hp⟩ := exists_wellFormed i
  obtain ⟨P, g, o, rfl, -, -, -⟩ := exec_effect hp h
  simp

/-! ### Sample steps -/

theorem exec_sampleCommand (B : Bool) (wl wr : Word) (s : State) :
    exec (sampleCommand B wl wr) s = sample B wl wr s := by
  cases B <;> rfl

/-- Settles O39: `sampleStep` is a function of the configuration, the parameters, the operands and the stage state. -/
theorem sampleDependsOnlyOnAudioState : Obligations.SampleDependsOnlyOnAudioState := by
  intro B wl wr s s' t t' hcfg hparams hstage h h'
  rw [exec_sampleCommand] at h h'
  obtain ⟨-, rfl⟩ := sample_inv h
  obtain ⟨-, rfl⟩ := sample_inv h'
  simp only [hcfg, hparams, hstage]
  exact ⟨rfl, _, rfl, rfl⟩

/-- A head inside a memory of `n` elements that is in order. -/
structure LineOk (n head : ℕ) (m : Memory) : Prop where
  head_lt : head < n
  memory : memoryOk n m = true

/-- A write at the head, and a new head inside the memory. -/
theorem LineOk.write {n head head' : ℕ} {m : Memory} (h : LineOk n head m) (v : Word) (hlt : head' < n) :
    LineOk n head' (memWrite m head v) :=
  ⟨hlt, memWrite_memoryOk v h.head_lt h.memory⟩

theorem LineOk.pos {n head : ℕ} {m : Memory} (h : LineOk n head m) : 0 < n := head.zero_le.trans_lt h.head_lt

theorem LineOk.empty {n : ℕ} (h : 0 < n) : LineOk n 0 [] := ⟨h, rfl⟩

/-- A comb's head stays inside its effective length, and so inside its memory (R123). -/
theorem combAdvance_lt {len : ℕ} {size : Word} (hlen : 1 ≤ len ∧ len ≤ 65535)
    (hsize : inBounds size reverbSizeMin one32 = true) (head : ℕ) : combAdvance len size head < len := by
  obtain ⟨hpos, hle⟩ := combLength_mem hlen.1 hlen.2 hsize
  rw [combAdvance]
  exact (Nat.mod_lt _ hpos).trans_le hle

/-- Every stage register in its range and every memory in order (R33 to R38, R44, R45), line by line. -/
structure Stage.InRange (c : Cfg) (g : Stage) : Prop where
  latch : g.latch < c.dcap
  ctr : g.ctr < 16
  dl : LineOk c.dcap g.dHead g.dl
  dr : LineOk c.dcap g.dHead g.dr
  comb0 : LineOk c.combLen.q0 g.cHead.q0 g.comb.q0
  comb1 : LineOk c.combLen.q1 g.cHead.q1 g.comb.q1
  comb2 : LineOk c.combLen.q2 g.cHead.q2 g.comb.q2
  comb3 : LineOk c.combLen.q3 g.cHead.q3 g.comb.q3
  ap : LineOk c.apLen g.apHead g.ap

theorem Stage.ok_iff (c : Cfg) (g : Stage) : g.ok c = true ↔ g.InRange c := by
  simp only [Stage.ok, indicesInRange, Bool.and_eq_true, decide_eq_true_eq]
  constructor
  · rintro ⟨⟨⟨⟨⟨⟨⟨⟨⟨hlatch, hctr⟩, ⟨⟨⟨⟨hd, h0⟩, h1⟩, h2⟩, h3⟩, ha⟩, mdl⟩, mdr⟩, m0⟩, m1⟩, m2⟩, m3⟩, ma⟩
    exact ⟨hlatch, hctr, ⟨hd, mdl⟩, ⟨hd, mdr⟩, ⟨h0, m0⟩, ⟨h1, m1⟩, ⟨h2, m2⟩, ⟨h3, m3⟩, ⟨ha, ma⟩⟩
  · rintro ⟨hlatch, hctr, ⟨hd, mdl⟩, ⟨-, mdr⟩, ⟨h0, m0⟩, ⟨h1, m1⟩, ⟨h2, m2⟩, ⟨h3, m3⟩, ⟨ha, ma⟩⟩
    exact ⟨⟨⟨⟨⟨⟨⟨⟨⟨hlatch, hctr⟩, ⟨⟨⟨⟨hd, h0⟩, h1⟩, h2⟩, h3⟩, ha⟩, mdl⟩, mdr⟩, m0⟩, m1⟩, m2⟩, m3⟩, ma⟩

/-- The ranges of a configuration (R6, R8, R59), one by one. -/
structure CfgInRange (c : Cfg) : Prop where
  fs : 1 ≤ c.fs ∧ c.fs ≤ 4194304
  comb0 : 1 ≤ c.combLen.q0 ∧ c.combLen.q0 ≤ 65535
  comb1 : 1 ≤ c.combLen.q1 ∧ c.combLen.q1 ≤ 65535
  comb2 : 1 ≤ c.combLen.q2 ∧ c.combLen.q2 ≤ 65535
  comb3 : 1 ≤ c.combLen.q3 ∧ c.combLen.q3 ≤ 65535
  ap : 1 ≤ c.apLen ∧ c.apLen ≤ 65535

theorem cfgInRange_of_wf {c : Cfg} (h : c.wf = true) : CfgInRange c := by
  simp only [Cfg.wf, lengthWf, Bool.and_eq_true, decide_eq_true_eq] at h
  obtain ⟨⟨⟨⟨⟨⟨⟨hfs, h0⟩, h1⟩, h2⟩, h3⟩, ha⟩, -⟩, -⟩ := h
  exact ⟨hfs, h0, h1, h2, h3, ha⟩

section
variable {c : Cfg} {P : Params} {g : Stage} (hc : CfgInRange c) (hP : P.InDomain) (hg : g.InRange c)
include hg

include hc hP in
theorem latchDelay_inRange (B : Bool) : (latchDelay c P B g).InRange c := by
  cases B with
  | false => exact hg
  | true => exact { hg with latch := delayLength_lt hc.fs.1 hc.fs.2 hP.delayTime }

include hP in
theorem decimate_inRange (x : Lanes) : (decimate P x g).2.InRange c :=
  { hg with ctr := (Nat.mod_lt _ hP.sampleRateDiv.1).trans_le hP.sampleRateDiv.2 }

theorem delayStage_inRange (x : Lanes) : (delayStage c P x g).2.InRange c :=
  { hg with
    dl := hg.dl.write _ (Nat.mod_lt _ hg.dl.pos)
    dr := hg.dr.write _ (Nat.mod_lt _ hg.dr.pos) }

include hc hP in
theorem combStage_inRange (m : Word) : (combStage c P m g).InRange c := by
  unfold combStage combWrite
  exact { hg with
    comb0 := hg.comb0.write _ (combAdvance_lt hc.comb0 hP.reverbSize _)
    comb1 := hg.comb1.write _ (combAdvance_lt hc.comb1 hP.reverbSize _)
    comb2 := hg.comb2.write _ (combAdvance_lt hc.comb2 hP.reverbSize _)
    comb3 := hg.comb3.write _ (combAdvance_lt hc.comb3 hP.reverbSize _) }

theorem allpassStage_inRange (pre : Word) : (allpassStage c pre g).2.InRange c :=
  { hg with ap := hg.ap.write _ (Nat.mod_lt _ hg.ap.pos) }

include hc hP in
/-- The five stages in their order keep the stage state in range. -/
theorem sampleStep_inRange (B : Bool) (x : Lanes) : (sampleStep c P B x g).2.InRange c :=
  allpassStage_inRange (combStage_inRange hc hP (delayStage_inRange
    (decimate_inRange hP (latchDelay_inRange hc hP hg B) _) _) _) _

end

/-! ### Taking a word -/

/-- But for NOP, a header is legal on one port only, the one its OP stands for (R68, R73). -/
theorem port_of_legal {p : Port} {h : Word} (hl : legal p h = true) (hop : opField h ≠ 0) : p = tablePort h := by
  simp only [legal, Bool.and_eq_true, Bool.or_eq_true, decide_eq_true_eq] at hl
  unfold tablePort
  obtain ⟨-, (((⟨hnop, -⟩ | ⟨⟨hp, hpwr⟩, -⟩) | ⟨⟨hp, hprd⟩, -⟩) | ⟨⟨hp, hcfgrd⟩, -⟩) | ⟨⟨hp, hsmp⟩, -⟩⟩ := hl
  · exact absurd hnop hop
  · rw [hp, if_neg (by omega)]
  · rw [hp, if_neg (by omega)]
  · rw [hp, if_neg (by omega)]
  · rw [hp, if_pos hsmp]

theorem nopCommand_wellFormed {idx : ℕ} {i : Instr} (p : Port) (h : nopCommand idx = some i) :
    i.wellFormed p = true := by
  unfold nopCommand at h
  split at h
  · cases h; rfl
  · cases h

theorem prdCommand_wellFormed {idx : ℕ} {i : Instr} (h : prdCommand idx = some i) : i.wellFormed .ctrl = true := by
  unfold prdCommand at h
  split at h <;> cases h <;> rfl

theorem cfgrdCommand_wellFormed {idx : ℕ} {i : Instr} (h : cfgrdCommand idx = some i) : i.wellFormed .ctrl = true := by
  unfold cfgrdCommand at h
  split at h <;> cases h <;> rfl

theorem pwrCommand_wellFormed {idx : ℕ} {v : Word} {i : Instr} (h : pwrCommand idx v = some i) :
    i.wellFormed .ctrl = true := by
  unfold pwrCommand at h
  split at h <;> cases h <;> rfl

theorem smpCommand_wellFormed {idx : ℕ} {wl wr : Word} {i : Instr} (h : smpCommand idx wl wr = some i) :
    i.wellFormed .smpl = true := by
  unfold smpCommand at h
  split at h <;> cases h <;> rfl

/-- A header that is legal on a port names a command the port accepts. -/
theorem commandOf_wellFormed {p : Port} {h : Word} {ops : List Word} {i : Instr} (hl : legal p h = true)
    (hi : commandOf h ops = some i) : i.wellFormed p = true := by
  unfold commandOf at hi
  split at hi
  · unfold commandOf0 at hi
    split_ifs at hi with hnop hprd hcfgrd
    · exact nopCommand_wellFormed p hi
    · obtain rfl : p = .ctrl := (port_of_legal hl (by omega)).trans (if_neg (by omega))
      exact prdCommand_wellFormed hi
    · obtain rfl : p = .ctrl := (port_of_legal hl (by omega)).trans (if_neg (by omega))
      exact cfgrdCommand_wellFormed hi
  · unfold commandOf1 at hi
    split_ifs at hi with hpwr
    obtain rfl : p = .ctrl := (port_of_legal hl (by omega)).trans (if_neg (by omega))
    exact pwrCommand_wellFormed hi
  · unfold commandOf2 at hi
    split_ifs at hi with hsmp
    obtain rfl : p = .smpl := (port_of_legal hl (by omega)).trans (if_pos hsmp)
    exact smpCommand_wellFormed hi
  · cases hi

theorem setParse_self (p : Port) (s : State) : setParse p (s.port p).parse s = s := s.setPort_self p

theorem parseOk_collecting (p : Port) (h : Word) (ops : List Word) :
    parseOk p (.collecting h ops) = true ↔ legal p h = true ∧ ops.length < nOperands (opField h) := by
  simp [parseOk]

/-- Everything a port that takes a word can do, if it answers a next state: record an illegal header, keep the word, or
run the complete command with the parser Idle, or hold it back. -/
theorem takeWord_next {p : Port} {w : Word} {s t : State} (h : takeWord p w s = .next t) :
    t = raiseIllegal p s ∨ (∃ x, parseOk p x = true ∧ t = setParse p x s) ∨
      ∃ i, i.wellFormed p = true ∧ runOrWait p i (setParse p .idle s) = .next t := by
  unfold takeWord at h
  split at h
  next hparse =>
    have hself := hparse ▸ setParse_self p s
    split_ifs at h with hl hn
    · split at h
      next i hi => exact .inr (.inr ⟨i, commandOf_wellFormed hl hi, hself.symm ▸ h⟩)
      next => cases h
    · cases h
      exact .inr (.inl ⟨_, (parseOk_collecting p w []).2 ⟨hl, Nat.pos_of_ne_zero hn⟩, rfl⟩)
    · cases h
      exact .inl rfl
  next hd ops hparse =>
    split_ifs at h with hl hn
    · simp only [Bool.and_eq_true] at hl
      split at h
      next i hi => exact .inr (.inr ⟨i, commandOf_wellFormed hl.1 hi, h⟩)
      next => cases h
    · cases h
      simp only [Bool.and_eq_true, decide_eq_true_eq] at hl
      have hlen : (ops ++ [w]).length < nOperands (opField hd) := by
        rw [List.length_append, List.length_singleton]
        exact lt_of_le_of_ne hl.2 hn
      exact .inr (.inl ⟨_, (parseOk_collecting p hd _).2 ⟨hl.1, hlen⟩, rfl⟩)

/-! ### STATUS -/

theorem runOrWait_status {p : Port} {i : Instr} {s t : State} (h : runOrWait p i s = .next t) :
    t.status = s.status := by
  obtain ⟨-, hrun⟩ | ⟨-, hrun⟩ := runOrWait_cases p i s <;> rw [hrun] at h
  · exact exec_status h
  · cases h
    simp [setWaiting]

/-- Only an illegal header sets a bit of STATUS, and no word clears one. -/
theorem takeWord_keepsStatus {p : Port} {w : Word} {s t : State} (h : takeWord p w s = .next t) :
    s.status &&& t.status = s.status := by
  obtain rfl | ⟨x, -, rfl⟩ | ⟨i, -, hrun⟩ := takeWord_next h
  · simp [raiseIllegal_eq, status_and_setIllegalBit]
  · simp [setParse]
  · simp [runOrWait_status hrun, setParse]

theorem serve_keepsStatus {p : Port} {s t : State} (h : serve p s = .next t) : s.status &&& t.status = s.status := by
  obtain ⟨i, -, -, hs⟩ | ⟨i, -, -, hs⟩ | ⟨-, -, hs⟩ | ⟨w, rest, -, -, hs⟩ := serve_cases p s <;> rw [hs] at h
  · simp [exec_status h, setWaiting]
  · cases h
    exact BitVec.and_self
  · cases h
    exact BitVec.and_self
  · simpa using takeWord_keepsStatus h

theorem remove_status (p : Port) (s : State) : (remove p s).status = s.status := by
  obtain ⟨-, hr⟩ | ⟨w, rest, -, hr⟩ := remove_cases p s <;> simp [hr]

/-- Settles O21: no command writes STATUS, an illegal header only sets a bit, and every other act but reset leaves it. -/
theorem statusIsSticky : Obligations.StatusIsSticky := by
  refine ⟨fun i s t h => exec_status h, fun s t hreset h => ?_⟩
  obtain ⟨-, hs⟩ | ⟨p, rest, -, hs⟩ | ⟨p, rest, -, hs⟩ | ⟨n, m, rest, hsched, -⟩ := step_cases s
  · cases hs.symm.trans h
    exact BitVec.and_self
  · simpa using serve_keepsStatus (hs.symm.trans h)
  · cases hs.symm.trans h
    simp [remove_status]
  · exact absurd hsched (hreset n m rest)

/-! ### The invariant -/

/-- `portOk`, field by field (R39, R54, R59). -/
structure PortInOrder (depth : ℕ) (p : Port) (x : PortState) : Prop where
  parse : parseOk p x.parse = true
  room : x.resp.length ≤ depth
  waiting : ∀ i, x.waiting = some i → i.wellFormed p = true ∧ x.parse = .idle

theorem portOk_iff (depth : ℕ) (p : Port) (x : PortState) : portOk depth p x = true ↔ PortInOrder depth p x := by
  rw [portOk, Bool.and_eq_true, Bool.and_eq_true, decide_eq_true_eq]
  refine ⟨fun ⟨⟨hparse, hroom⟩, hwait⟩ => ⟨hparse, hroom, fun i hi => ?_⟩, fun ⟨hparse, hroom, hwait⟩ =>
    ⟨⟨hparse, hroom⟩, ?_⟩⟩
  · simpa [hi] using hwait
  · cases hi : x.waiting with
    | none => rfl
    | some i => simpa using hwait i hi

theorem portInOrder_reset (depth : ℕ) (p : Port) : PortInOrder depth p PortState.reset :=
  ⟨rfl, depth.zero_le, nofun⟩

/-- `MachineInv`, field by field, with one clause for both ports. -/
structure InOrder (s : State) : Prop where
  cfg : s.cfg.wf = true
  params : s.params.InDomain
  stage : s.stage.InRange s.cfg
  port : ∀ p, PortInOrder s.cfg.respDepth p (s.port p)

theorem machineInv_iff (s : State) : MachineInv s ↔ InOrder s := by
  unfold MachineInv
  rw [Params.ok_iff, Stage.ok_iff, portOk_iff, portOk_iff]
  exact ⟨fun ⟨hcfg, hparams, hstage, hctrl, hsmpl⟩ => ⟨hcfg, hparams, hstage, fun | .ctrl => hctrl | .smpl => hsmpl⟩,
    fun ⟨hcfg, hparams, hstage, hport⟩ => ⟨hcfg, hparams, hstage, hport .ctrl, hport .smpl⟩⟩

theorem params_reset_inDomain : Params.reset.InDomain := (Params.ok_iff _).1 (by decide)

/-- Every allowed configuration is in order at reset. -/
theorem inOrder_resetWith {c : Cfg} (h : c.wf = true) : InOrder (State.resetWith c) where
  cfg := h
  params := params_reset_inDomain
  stage :=
    have hc := cfgInRange_of_wf h
    have hcap : 0 < c.dcap := Nat.mul_pos two_pos hc.fs.1
    { latch := delayLength_lt hc.fs.1 hc.fs.2 (by decide)
      ctr := Nat.zero_lt_succ _
      dl := LineOk.empty hcap
      dr := LineOk.empty hcap
      comb0 := LineOk.empty hc.comb0.1
      comb1 := LineOk.empty hc.comb1.1
      comb2 := LineOk.empty hc.comb2.1
      comb3 := LineOk.empty hc.comb3.1
      ap := LineOk.empty hc.ap.1 }
  port := fun | .ctrl => portInOrder_reset _ _ | .smpl => portInOrder_reset _ _

/-- The invariant speaks of the configuration, the parameters, the stage state and the ports. -/
theorem InOrder.congr {s t : State} (h : InOrder s) (hcfg : t.cfg = s.cfg) (hparams : t.params = s.params)
    (hstage : t.stage = s.stage) (hport : ∀ p, t.port p = s.port p) : InOrder t where
  cfg := hcfg ▸ h.cfg
  params := hparams ▸ h.params
  stage := by rw [hstage, hcfg]; exact h.stage
  port p := by rw [hport, hcfg]; exact h.port p

theorem InOrder.setSched {s : State} (h : InOrder s) (l : List Act) : InOrder (s.setSched l) :=
  h.congr (by simp) (by simp) (by simp) (by simp)

theorem InOrder.setHost {s : State} (h : InOrder s) (p : Port) (x : HostState) : InOrder (s.setHost p x) :=
  h.congr (by simp) (by simp) (by simp) (by simp)

theorem InOrder.raiseIllegal {s : State} (h : InOrder s) (p : Port) : InOrder (raiseIllegal p s) :=
  h.congr (by simp [raiseIllegal_eq]) (by simp [raiseIllegal_eq]) (by simp [raiseIllegal_eq])
    (by simp [raiseIllegal_eq])

theorem InOrder.setPort {s : State} (h : InOrder s) {p : Port} {x : PortState}
    (hx : PortInOrder s.cfg.respDepth p x) : InOrder (s.setPort p x) where
  cfg := by simpa using h.cfg
  params := by simpa using h.params
  stage := by simpa using h.stage
  port q := by
    rw [State.setPort_cfg]
    obtain rfl | hq := eq_or_ne q p
    · rwa [State.setPort_port_same]
    · rw [State.setPort_port_other _ _ _ _ hq]
      exact h.port q

/-- A command whose responses fit keeps the invariant. -/
theorem InOrder.exec {p : Port} {i : Instr} {s t : State} (h : InOrder s) (hp : i.wellFormed p = true)
    (hfits : fits p i s = true) (hexec : exec i s = .next t) : InOrder t := by
  obtain ⟨P, g, o, rfl, ho, hP, hg⟩ := exec_effect hp hexec
  have hstage : g.InRange s.cfg := by
    obtain rfl | ⟨-, B, x, rfl⟩ := hg
    · exact h.stage
    · exact sampleStep_inRange (cfgInRange_of_wf h.cfg) h.params h.stage B x
  have hmid : InOrder ((s.setParams P).setStage g) := ⟨h.cfg, hP h.params, hstage, by simpa using h.port⟩
  obtain ⟨hparse, -, hwait⟩ := h.port p
  simp only [fits, Bool.and_eq_true, decide_eq_true_eq] at hfits
  exact hmid.setPort ⟨hparse, by simpa [ho] using hfits.2, hwait⟩

theorem InOrder.runOrWait {p : Port} {i : Instr} {s t : State} (h : InOrder s) (hp : i.wellFormed p = true)
    (hidle : (s.port p).parse = .idle) (hrun : runOrWait p i s = .next t) : InOrder t := by
  obtain ⟨hfits, hr⟩ | ⟨-, hr⟩ := runOrWait_cases p i s <;> rw [hr] at hrun
  · exact h.exec hp hfits hrun
  · cases hrun
    obtain ⟨hparse, hroom, -⟩ := h.port p
    exact h.setPort ⟨hparse, hroom, fun j hj => by cases hj; exact ⟨hp, hidle⟩⟩

theorem InOrder.setParse {p : Port} {s : State} {x : Parse} (h : InOrder s) (hwait : (s.port p).waiting = none)
    (hx : parseOk p x = true) : InOrder (setParse p x s) :=
  h.setPort ⟨hx, (h.port p).room, fun i hi => by cases hwait.symm.trans hi⟩

theorem InOrder.takeWord {p : Port} {w : Word} {s t : State} (h : InOrder s) (hwait : (s.port p).waiting = none)
    (htake : takeWord p w s = .next t) : InOrder t := by
  obtain rfl | ⟨x, hx, rfl⟩ | ⟨i, hp, hrun⟩ := takeWord_next htake
  · exact h.raiseIllegal p
  · exact h.setParse hwait hx
  · exact (h.setParse (x := .idle) hwait rfl).runOrWait hp (by simp [Machine.setParse]) hrun

theorem InOrder.serve {p : Port} {s t : State} (h : InOrder s) (hserve : serve p s = .next t) : InOrder t := by
  obtain ⟨i, hi, hfits, hs⟩ | ⟨i, -, -, hs⟩ | ⟨-, -, hs⟩ | ⟨w, rest, hnone, -, hs⟩ := serve_cases p s <;>
    rw [hs] at hserve
  · obtain ⟨hparse, hroom, hwait⟩ := h.port p
    have hfree : InOrder (setWaiting p none s) := h.setPort ⟨hparse, hroom, nofun⟩
    exact hfree.exec (hwait i hi).1 (by simpa [fits, setWaiting] using hfits) hserve
  · cases hserve
    exact h
  · cases hserve
    exact h
  · exact (h.setHost p _).takeWord (by simpa using hnone) hserve

theorem InOrder.remove {s : State} (h : InOrder s) (p : Port) : InOrder (remove p s) := by
  obtain ⟨-, hr⟩ | ⟨w, rest, hresp, hr⟩ := remove_cases p s <;> rw [hr]
  · exact h
  · obtain ⟨hparse, hroom, hwait⟩ := h.port p
    rw [hresp, List.length_cons] at hroom
    have hx : PortInOrder s.cfg.respDepth p { s.port p with resp := rest } := ⟨hparse, Nat.le_of_succ_le hroom, hwait⟩
    exact (h.setPort hx).setHost p _

theorem InOrder.applyReset {s : State} (h : InOrder s) (n m : ℕ) : InOrder (applyReset n m s) :=
  (inOrder_resetWith h.cfg).congr rfl rfl rfl (fun | .ctrl => rfl | .smpl => rfl)

/-- Settles O10: each act keeps the invariant. -/
theorem everyStepKeepsTheInvariant : Obligations.EveryStepKeepsTheInvariant := by
  intro s t hs h
  rw [machineInv_iff] at hs ⊢
  obtain ⟨-, hstep⟩ | ⟨p, rest, -, hstep⟩ | ⟨p, rest, -, hstep⟩ | ⟨n, m, rest, -, hstep⟩ := step_cases s <;>
    rw [hstep] at h
  · cases h
    exact hs
  · exact (hs.setSched rest).serve h
  · cases h
    exact (hs.setSched rest).remove p
  · cases h
    exact (hs.setSched rest).applyReset n m

/-! ### Reset -/

theorem cfg_standard_wf {fs respDepth : ℕ} (hfs : 1 ≤ fs ∧ fs ≤ 4194304) (hdepth : 2 ≤ respDepth) :
    (Cfg.standard fs respDepth).wf = true := by
  simp [Cfg.standard, Cfg.wf, lengthWf, gainWf, Config.combLen, Config.apLen, Config.apGain, hfs, hdepth]

/-- The configuration at reset is allowed, whatever its free values are. -/
theorem cfg_here_wf : Cfg.here.wf = true :=
  cfg_standard_wf ⟨Nat.le_add_left _ _, Config.fsLessOne.isLt⟩ (Nat.le_add_left _ _)

/-- Settles O9: the free values of the configuration at reset are in their ranges by their types. -/
theorem resetMeetsTheInvariant : Obligations.ResetMeetsTheInvariant :=
  (machineInv_iff _).2 (inOrder_resetWith cfg_here_wf)

/-- Settles O7: the table is read off `State.resetWith`. -/
theorem resetStateIsTheTable : Obligations.ResetStateIsTheTable := fun _ =>
  ⟨rfl, rfl, rfl, rfl, rfl, rfl, rfl, rfl, rfl, fun _ => ⟨rfl, rfl, rfl, rfl, rfl, rfl, rfl⟩, rfl,
    fun | .ctrl => ⟨rfl, rfl⟩ | .smpl => ⟨rfl, rfl⟩⟩

end Sys2Proof.Machine
end

section
/-! PROOFS. The memory and the ports of 20_memory.md (family 20_memory.md: O4, O16, O18 to O20, O38). A command comes
back from its words, and words from their bytes; `takeWord_of_decode` says what a port does with the last word of a
command. What a port has given out is `State.emitted`, and a port left alone is `SamePort`: both are followed through one
lemma per operation, up to `serve`. -/

namespace Sys2Proof.Machine

/-! ### Commands and their words -/

open Laws.Framing in
/-- Every command is framed as R66 and R71 say. -/
theorem framing (i : Instr) : Statement i :=
  Instr.casesOn i nop pwrBitDepth pwrSampleRateDiv pwrDelayTime pwrDelayFeedback pwrDelayMix pwrReverbMix pwrReverbSize
    prdBitDepth prdSampleRateDiv prdDelayTime prdDelayFeedback prdDelayMix prdReverbMix prdReverbSize cfgrdFs cfgrdDcap
    cfgrdCombLen0 cfgrdCombLen1 cfgrdCombLen2 cfgrdCombLen3 cfgrdApLen cfgrdApGain cfgrdStatus smp smpB

theorem commandOf_header_operands (i : Instr) : commandOf (header i) (operands i) = some i := by
  cases i <;> simp only [header, operands] <;> rfl

theorem legal_header {p : Port} {i : Instr} (hp : i.wellFormed p = true) : legal p (header i) = true := by
  cases i with
  | nop => cases p <;> rfl
  | smp wl wr | smpB wl wr =>
    obtain rfl : p = .smpl := of_decide_eq_true hp
    simp only [header]
    rfl
  | _ =>
    obtain rfl : p = .ctrl := of_decide_eq_true hp
    simp only [header]
    rfl

/-- A port that accepts a command decodes its words to it, whatever follows them (R65, R71). -/
theorem decode_encode_append {p : Port} {i : Instr} (hp : i.wellFormed p = true) (rest : List Word) :
    decode p (encode i ++ rest) = .ok (i, rest) := by
  obtain ⟨-, hlen, -⟩ := framing i
  rw [encode, List.cons_append, decode, if_pos (legal_header hp), ← hlen]
  simp [commandOf_header_operands]

/-- A header and words that are together one command, with nothing left over. -/
theorem decode_cons_complete {p : Port} {h : Word} {ops : List Word} {i : Instr}
    (hdec : decode p (h :: ops) = .ok (i, [])) :
    legal p h = true ∧ ops.length = nOperands (opField h) ∧ commandOf h ops = some i := by
  rw [decode] at hdec
  split_ifs at hdec with hl
  dsimp only at hdec
  split_ifs at hdec with hlen
  split at hdec
  next j hj =>
    simp only [Except.ok.injEq, Prod.mk.injEq, List.drop_eq_nil_iff] at hdec
    obtain ⟨rfl, hle⟩ := hdec
    rw [List.take_of_length_le hle] at hj
    exact ⟨hl, le_antisymm hle (not_lt.1 hlen), hj⟩
  next => cases hdec

/-! ### The byte-serial bridge (R49) -/

theorem ofNat_div_two_pow (w : Word) (k : ℕ) : BitVec.ofNat 8 (w.toNat / 2 ^ k) = w.extractLsb' k 8 := by
  rw [BitVec.extractLsb', Nat.shiftRight_eq_div_pow]

theorem wordBytes_eq (w : Word) :
    wordBytes w = [w.extractLsb' 0 8, w.extractLsb' 8 8, w.extractLsb' 16 8, w.extractLsb' 24 8] := by
  simp only [wordBytes, ← ofNat_div_two_pow, pow_zero, Nat.div_one]

theorem wordsOfBytes_wordBytes_append (w : Word) (bs : List Byte) :
    wordsOfBytes (wordBytes w ++ bs) = w :: wordsOfBytes bs := by
  have hw : wordOfBytes (.ofNat 8 w.toNat) (.ofNat 8 (w.toNat / 2 ^ 8)) (.ofNat 8 (w.toNat / 2 ^ 16))
      (.ofNat 8 (w.toNat / 2 ^ 24)) = w := by
    apply BitVec.eq_of_toNat_eq
    simp only [wordOfBytes, BitVec.toNat_ofNat]
    omega
  exact congrArg (· :: wordsOfBytes bs) hw

theorem wordsOfBytes_flatMap_wordBytes (ws : List Word) : wordsOfBytes (ws.flatMap wordBytes) = ws := by
  induction ws with
  | nil => rfl
  | cons w ws ih => rw [List.flatMap_cons, wordsOfBytes_wordBytes_append, ih]

/-- Settles O4: a bridged stream carries the words of the encoding. -/
theorem bridgeCarriesLeastSignificantByteFirst : Obligations.BridgeCarriesLeastSignificantByteFirst := by
  refine ⟨wordBytes_eq, wordsOfBytes_flatMap_wordBytes, fun p i hp => ?_⟩
  rw [decodeBytes, encodeBytes, wordsOfBytes_flatMap_wordBytes, ← List.append_nil (encode i)]
  exact decode_encode_append hp []

/-! ### Acts of the schedule -/

theorem step_serve {s : State} {p : Port} {rest : List Act} (h : s.sched = .serve p :: rest) :
    step s = serve p (s.setSched rest) := by
  rw [step, h]
  rfl

theorem step_remove {s : State} {p : Port} {rest : List Act} (h : s.sched = .remove p :: rest) :
    step s = .next (remove p (s.setSched rest)) := by
  rw [step, h]
  rfl

/-! ### Removing a response (R58, R152) -/

theorem remove_of_resp_cons {p : Port} {s : State} {w : Word} {ws : List Word} (h : (s.port p).resp = w :: ws) :
    remove p s = (s.setPort p { s.port p with resp := ws }).setHost p
      { s.host p with received := (s.host p).received ++ [w] } := by
  rw [remove, h]

theorem remove_of_resp_nil {p : Port} {s : State} (h : (s.port p).resp = []) : remove p s = s := by
  rw [remove, h]

/-- Settles O18: the two cases of a removal. -/
theorem hostRemovesTheOldestResponse : Obligations.HostRemovesTheOldestResponse := by
  intro s p rest hsched
  rw [step_remove hsched]
  refine ⟨fun w ws hresp => ?_, fun hresp => ?_⟩
  · rw [remove_of_resp_cons (w := w) (ws := ws) (by simpa using hresp), State.setSched_port, State.setSched_host]
  · rw [remove_of_resp_nil (by simpa using hresp)]

/-! ### A command that waits for room (R59, R164) -/

/-- Whether a command fits depends on the length of its port's queue and on RESP_DEPTH only. -/
theorem fits_congr {p : Port} {i : Instr} {s t : State} (hresp : (t.port p).resp = (s.port p).resp)
    (hcfg : t.cfg = s.cfg) : fits p i t = fits p i s := by
  rw [fits, fits, hresp, hcfg]

/-- The word that completes a command makes its port Idle, and the command runs or waits (R55, R70). -/
theorem takeWord_of_decode {p : Port} {w : Word} {i : Instr} {s : State}
    (hdec : decode p (wordsTaken (s.port p).parse ++ [w]) = .ok (i, [])) :
    takeWord p w s = runOrWait p i (setParse p .idle s) := by
  unfold takeWord
  cases hparse : (s.port p).parse with
  | idle =>
    rw [hparse] at hdec
    obtain ⟨hl, hlen, hi⟩ := decode_cons_complete (ops := []) hdec
    have hself : setParse p .idle s = s := hparse ▸ setParse_self p s
    simp [hl, ← hlen, hi, hself]
  | collecting h ops =>
    rw [hparse] at hdec
    obtain ⟨hl, hlen, hi⟩ := decode_cons_complete (ops := ops ++ [w]) hdec
    rw [List.length_append, List.length_singleton] at hlen
    simp [hl, ← hlen, hi]

theorem runOrWait_of_not_fits {p : Port} {i : Instr} {s : State} (h : fits p i s = false) :
    runOrWait p i s = .next (setWaiting p (some i) s) := by
  rw [runOrWait, h, if_neg Bool.false_ne_true]

theorem serve_of_waiting {p : Port} {i : Instr} {s : State} (h : (s.port p).waiting = some i) :
    serve p s = if fits p i s then exec i (setWaiting p none s) else .next s := by
  rw [serve, h]

theorem serve_of_toSend_cons {p : Port} {s : State} {w : Word} {ws : List Word} (hwait : (s.port p).waiting = none)
    (hsend : (s.host p).toSend = w :: ws) :
    serve p s = takeWord p w (s.setHost p { s.host p with toSend := ws }) := by
  rw [serve, hwait, hsend]

/-- Settles O16: the completing word holds a command back, and a port that holds one looks only at whether it fits. -/
theorem commandWaitsForRoom : Obligations.CommandWaitsForRoom := by
  intro s p rest i hsched
  rw [step_serve hsched]
  refine ⟨fun w ws hwait hsend hdec hfull => ?_, fun hwait hfull => ?_, fun hwait hfits => ?_⟩
  · rw [serve_of_toSend_cons (by simpa using hwait) (by simpa using hsend), takeWord_of_decode (by simpa using hdec),
      runOrWait_of_not_fits ((fits_congr (by simp [setParse]) (by simp [setParse])).trans hfull)]
    simp [setWaiting, setParse]
  · rw [serve_of_waiting (by simpa using hwait), fits_congr (s := s) (by simp) (by simp), hfull]
    rfl
  · rw [serve_of_waiting (by simpa using hwait), fits_congr (s := s) (by simp) (by simp), hfits, if_pos rfl,
      setWaiting, State.setSched_port]

/-! ### Responses in order (R58) -/

/-- All response words of port `p` so far: those its host has removed, then those queued. -/
def State.emitted (s : State) (p : Port) : List Word := (s.host p).received ++ (s.port p).resp

theorem emitted_congr {s t : State} {q : Port} (hhost : (t.host q).received = (s.host q).received)
    (hport : (t.port q).resp = (s.port q).resp) : t.emitted q = s.emitted q := by
  rw [State.emitted, State.emitted, hhost, hport]

/-- A port whose queue grows at its end. -/
theorem emitted_prefix_setPort {s : State} {p : Port} {x : PortState} (h : (s.port p).resp <+: x.resp) (q : Port) :
    s.emitted q <+: (s.setPort p x).emitted q := by
  rw [State.emitted, State.emitted, State.setPort_host, List.prefix_append_right_inj]
  obtain rfl | hq := eq_or_ne q p
  · rwa [State.setPort_port_same]
  · rw [State.setPort_port_other _ _ _ _ hq]

theorem emitted_prefix_setParse (p q : Port) (x : Parse) (s : State) :
    s.emitted q <+: (setParse p x s).emitted q :=
  emitted_prefix_setPort (x := { s.port p with parse := x }) List.prefix_rfl q

theorem emitted_prefix_setWaiting (p q : Port) (x : Option Instr) (s : State) :
    s.emitted q <+: (setWaiting p x s).emitted q :=
  emitted_prefix_setPort (x := { s.port p with waiting := x }) List.prefix_rfl q

theorem emitted_setHost_toSend (s : State) (p q : Port) (ws : List Word) :
    (s.setHost p { s.host p with toSend := ws }).emitted q = s.emitted q := by
  refine emitted_congr ?_ (by simp)
  obtain rfl | hq := eq_or_ne q p
  · rw [State.setHost_host_same]
  · rw [State.setHost_host_other _ _ _ _ hq]

theorem exec_emitted {i : Instr} {s t : State} (h : exec i s = .next t) (q : Port) :
    s.emitted q <+: t.emitted q := by
  obtain ⟨p, hp⟩ := exists_wellFormed i
  obtain ⟨P, g, o, rfl, -, -, -⟩ := exec_effect hp h
  have hsame : ((s.setParams P).setStage g).emitted q = s.emitted q := emitted_congr (by simp) (by simp)
  rw [← hsame]
  exact emitted_prefix_setPort (by simp) q

theorem runOrWait_emitted {p : Port} {i : Instr} {s t : State} (h : runOrWait p i s = .next t) (q : Port) :
    s.emitted q <+: t.emitted q := by
  obtain ⟨-, hrun⟩ | ⟨-, hrun⟩ := runOrWait_cases p i s <;> rw [hrun] at h
  · exact exec_emitted h q
  · cases h
    exact emitted_prefix_setWaiting p q _ s

theorem takeWord_emitted {p : Port} {w : Word} {s t : State} (h : takeWord p w s = .next t) (q : Port) :
    s.emitted q <+: t.emitted q := by
  obtain rfl | ⟨x, -, rfl⟩ | ⟨i, -, hrun⟩ := takeWord_next h
  · rw [emitted_congr (s := s) (t := raiseIllegal p s) (by simp [raiseIllegal_eq]) (by simp [raiseIllegal_eq])]
  · exact emitted_prefix_setParse p q x s
  · exact (emitted_prefix_setParse p q .idle s).trans (runOrWait_emitted hrun q)

theorem serve_emitted {p : Port} {s t : State} (h : serve p s = .next t) (q : Port) :
    s.emitted q <+: t.emitted q := by
  obtain ⟨i, -, -, hs⟩ | ⟨i, -, -, hs⟩ | ⟨-, -, hs⟩ | ⟨w, rest, -, -, hs⟩ := serve_cases p s <;> rw [hs] at h
  · exact (emitted_prefix_setWaiting p q none s).trans (exec_emitted h q)
  · cases h
    exact List.prefix_rfl
  · cases h
    exact List.prefix_rfl
  · simpa only [emitted_setHost_toSend] using takeWord_emitted h q

/-- A removal moves a word from the queue's head to the end of what the host has received. -/
theorem remove_emitted (p q : Port) (s : State) : (remove p s).emitted q = s.emitted q := by
  obtain ⟨-, hr⟩ | ⟨w, rest, hresp, hr⟩ := remove_cases p s <;> rw [hr]
  obtain rfl | hq := eq_or_ne q p
  · simp [State.emitted, hresp]
  · exact emitted_congr (by rw [State.setHost_host_other _ _ _ _ hq, State.setPort_host])
      (by rw [State.setHost_port, State.setPort_port_other _ _ _ _ hq])

theorem emitted_setSched (s : State) (l : List Act) (q : Port) : (s.setSched l).emitted q = s.emitted q :=
  emitted_congr (by simp) (by simp)

/-- Settles O19: commands append to a queue, and a removal moves its head. -/
theorem responsesComeOutInOrder : Obligations.ResponsesComeOutInOrder := by
  intro s t q hreset h
  change s.emitted q <+: t.emitted q
  obtain ⟨-, hs⟩ | ⟨p, rest, -, hs⟩ | ⟨p, rest, -, hs⟩ | ⟨n, m, rest, hsched, -⟩ := step_cases s
  · cases hs.symm.trans h
    exact List.prefix_rfl
  · simpa only [emitted_setSched] using serve_emitted (hs.symm.trans h) q
  · cases hs.symm.trans h
    rw [remove_emitted, emitted_setSched]
  · exact absurd hsched (hreset n m rest)

/-! ### The other port (R58, R59, R163) -/

/-- Port `q`, the block's side and the host's, is the same in both states. -/
structure SamePort (q : Port) (s t : State) : Prop where
  port : t.port q = s.port q
  host : t.host q = s.host q

theorem SamePort.trans {q : Port} {s t u : State} (h : SamePort q s t) (h' : SamePort q t u) : SamePort q s u :=
  ⟨h'.port.trans h.port, h'.host.trans h.host⟩

section
variable {p q : Port} {s t : State} (hq : q ≠ p)
include hq

theorem samePort_setPort (s : State) (x : PortState) : SamePort q s (s.setPort p x) :=
  ⟨State.setPort_port_other _ _ _ _ hq, State.setPort_host _ _ _ _⟩

theorem samePort_setHost (s : State) (x : HostState) : SamePort q s (s.setHost p x) :=
  ⟨State.setHost_port _ _ _ _, State.setHost_host_other _ _ _ _ hq⟩

/-- A command responds on a port that accepts it. -/
theorem exec_samePort {i : Instr} (hp : i.wellFormed p = true) (h : exec i s = .next t) : SamePort q s t := by
  obtain ⟨P, g, o, rfl, -, -, -⟩ := exec_effect hp h
  have hstage : SamePort q s ((s.setParams P).setStage g) := ⟨by simp, by simp⟩
  exact hstage.trans (samePort_setPort hq _ _)

theorem runOrWait_samePort {i : Instr} (hp : i.wellFormed p = true) (h : runOrWait p i s = .next t) :
    SamePort q s t := by
  obtain ⟨-, hrun⟩ | ⟨-, hrun⟩ := runOrWait_cases p i s <;> rw [hrun] at h
  · exact exec_samePort hq hp h
  · cases h
    exact samePort_setPort hq _ _

theorem takeWord_samePort {w : Word} (h : takeWord p w s = .next t) : SamePort q s t := by
  obtain rfl | ⟨x, -, rfl⟩ | ⟨i, hp, hrun⟩ := takeWord_next h
  · exact ⟨by simp [raiseIllegal_eq], by simp [raiseIllegal_eq]⟩
  · exact samePort_setPort hq _ _
  · exact (samePort_setPort hq _ _).trans (runOrWait_samePort hq hp hrun)

/-- A port serves only itself, if the command it holds back is one it accepts. -/
theorem serve_samePort (hwait : ∀ i, (s.port p).waiting = some i → i.wellFormed p = true) (h : serve p s = .next t) :
    SamePort q s t := by
  obtain ⟨i, hi, -, hs⟩ | ⟨i, -, -, hs⟩ | ⟨-, -, hs⟩ | ⟨w, rest, -, -, hs⟩ := serve_cases p s <;> rw [hs] at h
  · exact (samePort_setPort hq _ _).trans (exec_samePort hq (hwait i hi) h)
  · cases h
    exact ⟨rfl, rfl⟩
  · cases h
    exact ⟨rfl, rfl⟩
  · exact (samePort_setHost hq _ _).trans (takeWord_samePort hq h)

end

/-- Settles O20: a command responds on a port that accepts it, and the invariant says so of a command held back. -/
theorem otherPortIsUntouched : Obligations.OtherPortIsUntouched := by
  intro s t p q rest hinv hsched h hq
  rw [step_serve hsched] at h
  have hwait := (((machineInv_iff s).1 hinv).setSched rest).port p |>.waiting
  obtain ⟨hport, hhost⟩ := serve_samePort hq (fun i hi => (hwait i hi).1) h
  exact ⟨hport.trans (by simp), hhost.trans (by simp)⟩

/-! ### Sample steps that stop (R45) -/

/-- Settles O38: a sample step asks only whether the heads are inside their memories. -/
theorem sampleStopsOnlyOutOfRange : Obligations.SampleStopsOnlyOutOfRange := by
  intro B wl wr s
  rw [exec_sampleCommand]
  cases hr : indicesInRange s.cfg s.stage with
  | true => simp [sample_next B wl wr s hr]
  | false => simp [sample_fault B wl wr s hr, eq_comm]

end Sys2Proof.Machine
end

section
/-! PROOFS. The commands of 30_encoding.md (family 30_encoding.md: O1 to O3, O5, O6, O12 to O14). A legal header is the
word of its OP and IDX (`headerWord`), so the opcode map and the encoder are compared field by field. `Parse.push` is a
parser with one more word; `takeWord_of_parseOk` says that a port keeps a word as long as what it then holds is a parser
state of R39, and `takeWord_of_decode` what it does with the last one. -/

namespace Sys2Proof.Machine

/-! ### Header words (R66) -/

/-- The header word with these fields OP and IDX and no reserved bit set (R66). -/
def headerWord (op idx : ℕ) : Word := BitVec.ofNat 32 (op * 2 ^ 24 + idx)

/-- Without reserved bits, a header is the word of its OP and IDX. -/
theorem headerWord_fields {h : Word} (hrsv : rsvField h = 0) : headerWord (opField h) (idxField h) = h := by
  apply BitVec.eq_of_toNat_eq
  have hlt := h.isLt
  simp only [headerWord, rsvField, opField, idxField, field, BitVec.toNat_ofNat] at *
  omega

theorem fields_headerWord {op idx : ℕ} (hop : op < 256) (hidx : idx < 16) :
    rsvField (headerWord op idx) = 0 ∧ opField (headerWord op idx) = op ∧ idxField (headerWord op idx) = idx := by
  simp only [headerWord, rsvField, opField, idxField, field, BitVec.toNat_ofNat]
  omega

/-! ### The opcode map (R68, R73) -/

/-- The header words of one row of the opcode map: OP `op`, IDX from 0 up to but not including `n` (R68). -/
def headersOf (op n : ℕ) : List Word := (List.range n).map (headerWord op)

theorem mem_headersOf {op n : ℕ} (hop : op < 256) (hn : n ≤ 16) (h : Word) :
    h ∈ headersOf op n ↔ rsvField h = 0 ∧ opField h = op ∧ idxField h < n := by
  simp only [headersOf, List.mem_map, List.mem_range]
  constructor
  · rintro ⟨idx, hidx, rfl⟩
    obtain ⟨hrsv', hop', hidx'⟩ := fields_headerWord hop (hidx.trans_le hn)
    exact ⟨hrsv', hop', hidx'.symm ▸ hidx⟩
  · rintro ⟨hrsv, rfl, hidx⟩
    exact ⟨idxField h, hidx, headerWord_fields hrsv⟩

theorem legal_ctrl_iff (h : Word) :
    legal .ctrl h = true ↔ h ∈ headersOf 0 1 ++ headersOf 1 7 ++ headersOf 2 7 ++ headersOf 3 9 := by
  simp only [legal, Bool.and_eq_true, Bool.or_eq_true, decide_eq_true_eq, reduceCtorEq, true_and, false_and, or_false,
    List.mem_append, mem_headersOf, Nat.reduceLT, Nat.reduceLeDiff]
  omega

theorem legal_smpl_iff (h : Word) : legal .smpl h = true ↔ h ∈ headersOf 0 1 ++ headersOf 16 2 := by
  have hB : field 3 1 h = 0 ↔ idxField h < 2 := by
    simp only [field, idxField]
    omega
  simp only [legal, Bool.and_eq_true, Bool.or_eq_true, decide_eq_true_eq, reduceCtorEq, true_and, false_and, or_false,
    hB, List.mem_append, mem_headersOf, Nat.reduceLT, Nat.reduceLeDiff]
  omega

/-- Settles O3: the rows of the opcode map, written out. -/
theorem legalHeadersAreTheTable : Obligations.LegalHeadersAreTheTable
  | .ctrl, h => legal_ctrl_iff h
  | .smpl, h => legal_smpl_iff h

/-! ### Decoding (R65, R68, R71) -/

/-- Settles O1: a command is framed by its header and named by its words. -/
theorem decodeOfEncodeIsTheCommand : Obligations.DecodeOfEncodeIsTheCommand :=
  fun _ _ rest hp => decode_encode_append hp rest

theorem encode_of_nopCommand {idx : ℕ} {i : Instr} (h : nopCommand idx = some i) : encode i = [headerWord 0 idx] := by
  unfold nopCommand at h
  split_ifs at h with hidx
  cases h
  rw [hidx]
  rfl

theorem encode_of_prdCommand {idx : ℕ} {i : Instr} (h : prdCommand idx = some i) : encode i = [headerWord 2 idx] := by
  unfold prdCommand at h
  split at h <;> cases h <;> rfl

theorem encode_of_cfgrdCommand {idx : ℕ} {i : Instr} (h : cfgrdCommand idx = some i) :
    encode i = [headerWord 3 idx] := by
  unfold cfgrdCommand at h
  split at h <;> cases h <;> rfl

theorem encode_of_pwrCommand {idx : ℕ} {v : Word} {i : Instr} (h : pwrCommand idx v = some i) :
    encode i = [headerWord 1 idx, v] := by
  unfold pwrCommand at h
  split at h <;> cases h <;> rfl

theorem encode_of_smpCommand {idx : ℕ} {wl wr : Word} {i : Instr} (h : smpCommand idx wl wr = some i) :
    encode i = [headerWord 16 idx, wl, wr] := by
  unfold smpCommand at h
  split at h <;> cases h <;> rfl

/-- The encoding of what a header and its operand words name has the header's OP and IDX, and those operand words. -/
theorem encode_of_commandOf {h : Word} {ops : List Word} {i : Instr} (hi : commandOf h ops = some i) :
    encode i = headerWord (opField h) (idxField h) :: ops := by
  unfold commandOf at hi
  split at hi
  · unfold commandOf0 at hi
    split_ifs at hi with hop hop hop <;> rw [hop]
    · exact encode_of_nopCommand hi
    · exact encode_of_prdCommand hi
    · exact encode_of_cfgrdCommand hi
  · unfold commandOf1 at hi
    split_ifs at hi with hop
    rw [hop]
    exact encode_of_pwrCommand hi
  · unfold commandOf2 at hi
    split_ifs at hi with hop
    rw [hop]
    exact encode_of_smpCommand hi
  · cases hi

theorem rsvField_of_legal {p : Port} {h : Word} (hl : legal p h = true) : rsvField h = 0 := by
  simp only [legal, Bool.and_eq_true, decide_eq_true_eq] at hl
  exact hl.1

/-- What the decoder answers is named by a legal header and the operand words after it. -/
theorem decode_eq_ok {p : Port} {ws rest : List Word} {i : Instr} (hdec : decode p ws = .ok (i, rest)) :
    ∃ h ops, ws = h :: ops ++ rest ∧ legal p h = true ∧ commandOf h ops = some i := by
  unfold decode at hdec
  split at hdec
  next => cases hdec
  next h tail =>
    split_ifs at hdec with hl
    dsimp only at hdec
    split_ifs at hdec
    split at hdec
    next j hj =>
      cases hdec
      exact ⟨h, _, by rw [List.cons_append, List.take_append_drop], hl, hj⟩
    next => cases hdec

/-- Settles O2: a legal header has no reserved bits, so its OP and IDX are all of it. -/
theorem decodedWordsAreTheEncoding : Obligations.DecodedWordsAreTheEncoding := by
  intro p ws i rest hdec
  obtain ⟨h, ops, rfl, hl, hi⟩ := decode_eq_ok hdec
  refine ⟨?_, commandOf_wellFormed hl hi⟩
  rw [encode_of_commandOf hi, headerWord_fields (rsvField_of_legal hl)]

/-! ### The assembler (R75 to R77) -/

/-- Settles O5: each line is assembled by evaluation, and its words decode by `decode_encode_append`. -/
theorem workedEncodingsDecode : Obligations.WorkedEncodingsDecode := by
  intro x hx
  have hasm : assembleLine x.1.toList = .command x.2.2.1 ∧ encode x.2.2.1 = x.2.2.2 ∧
      x.2.2.1.wellFormed x.2.1 = true := by
    revert x hx
    decide +kernel
  obtain ⟨hline, henc, hport⟩ := hasm
  refine ⟨hline, henc, ?_⟩
  rw [← henc, ← List.append_nil (encode _)]
  exact decode_encode_append hport []

theorem filterMap_id_cons {α : Type} (o : Option α) (os : List (Option α)) :
    (o :: os).filterMap id = o.toList ++ os.filterMap id := by
  cases o <;> rfl

theorem block_append_singleton (first x : Lanes) (xs : List Lanes) :
    block first (xs ++ [x]) = block first xs ++ [.smp x.l x.r] := by
  simp [block]

theorem encodeStream_append (cs ds : List Instr) : encodeStream (cs ++ ds) = encodeStream cs ++ encodeStream ds :=
  List.flatMap_append

/-- Settles O6: a key not given leaves nothing in the list, and a further pair adds one SMP at the end. -/
theorem pseudoCommandsExpand : Obligations.PseudoCommandsExpand := by
  refine ⟨fun k => ?_, rfl, fun _ _ => rfl, fun first x xs => ?_⟩
  · simp only [setParams, filterMap_id_cons, List.filterMap_nil, List.append_nil, List.append_assoc]
  · rw [block_append_singleton, encodeStream_append]
    rfl

/-! ### A turn that takes a word (R55, R70) -/

/-- The state after a turn of port `p` that took one word and only moved its parser: `rest` of the schedule and `ws` of
the words sent on `p` are left, and the parser is in state `x`. -/
def State.afterWord (s : State) (p : Port) (rest : List Act) (ws : List Word) (x : Parse) : State :=
  ((s.setSched rest).setHost p { s.host p with toSend := ws }).setPort p { s.port p with parse := x }

section
variable (s : State) (p : Port) (rest : List Act) (ws : List Word) (x : Parse)

@[simp] theorem State.afterWord_cfg : (s.afterWord p rest ws x).cfg = s.cfg := by simp [afterWord]
@[simp] theorem State.afterWord_sched : (s.afterWord p rest ws x).sched = rest := by simp [afterWord]
@[simp] theorem State.afterWord_port : (s.afterWord p rest ws x).port p = { s.port p with parse := x } := by
  simp [afterWord]
@[simp] theorem State.afterWord_host : (s.afterWord p rest ws x).host p = { s.host p with toSend := ws } := by
  simp [afterWord]

@[simp] theorem State.afterWord_afterWord (rest' : List Act) (ws' : List Word) (x' : Parse) :
    (s.afterWord p rest ws x).afterWord p rest' ws' x' = s.afterWord p rest' ws' x' := by
  cases p <;> rfl

theorem State.afterWord_parse_self :
    s.afterWord p rest ws (s.port p).parse = (s.setSched rest).setHost p { s.host p with toSend := ws } := by
  cases p <;> rfl

end

/-- A turn of a port with no command waiting takes the next word sent on it. -/
theorem step_takeWord {s : State} {p : Port} {rest : List Act} {w : Word} {ws : List Word}
    (hsched : s.sched = .serve p :: rest) (hwait : (s.port p).waiting = none) (hsend : (s.host p).toSend = w :: ws) :
    step s = takeWord p w ((s.setSched rest).setHost p { s.host p with toSend := ws }) := by
  rw [step_serve hsched, serve_of_toSend_cons (by simpa using hwait) (by simpa using hsend), State.setSched_host]

theorem setParse_eq_afterWord (s : State) (p : Port) (rest : List Act) (ws : List Word) (x : Parse) :
    setParse p x ((s.setSched rest).setHost p { s.host p with toSend := ws }) = s.afterWord p rest ws x := by
  simp [setParse, State.afterWord]

theorem runOrWait_of_fits {p : Port} {i : Instr} {s : State} (h : fits p i s = true) : runOrWait p i s = exec i s := by
  rw [runOrWait, if_pos h]

/-- Settles O12: the last word of a command makes the parser Idle and runs it. -/
theorem stepRunsTheDecodedCommand : Obligations.StepRunsTheDecodedCommand := by
  intro s p rest w ws i hsched hwait hsend hdec hfits
  rw [step_takeWord hsched hwait hsend, takeWord_of_decode (by simpa using hdec), setParse_eq_afterWord]
  exact runOrWait_of_fits ((fits_congr (by simp) (by simp)).trans hfits)

/-! ### Words the parser keeps (R39, R70) -/

/-- A parser state with one more word taken: a header, or a further operand word. -/
def Parse.push (x : Parse) (w : Word) : Parse :=
  match x with
  | .idle => .collecting w []
  | .collecting h ops => .collecting h (ops ++ [w])

theorem wordsTaken_push (x : Parse) (w : Word) : wordsTaken (x.push w) = wordsTaken x ++ [w] := by
  cases x <;> rfl

/-- A port keeps a word as long as that makes a parser state R39 allows: a legal header that still needs an operand. -/
theorem takeWord_of_parseOk {p : Port} {w : Word} {s : State} (hok : parseOk p ((s.port p).parse.push w) = true) :
    takeWord p w s = .next (setParse p ((s.port p).parse.push w) s) := by
  unfold takeWord
  cases hparse : (s.port p).parse with
  | idle =>
    rw [hparse] at hok
    obtain ⟨hl, hlen⟩ := (parseOk_collecting p w []).1 hok
    have hne : nOperands (opField w) ≠ 0 := Nat.ne_of_gt hlen
    simp [hl, hne, Parse.push]
  | collecting h ops =>
    rw [hparse] at hok
    obtain ⟨hl, hlen⟩ := (parseOk_collecting p h (ops ++ [w])).1 hok
    rw [List.length_append, List.length_singleton] at hlen
    simp [hl, hlen.le, hlen.ne, Parse.push]

/-- A turn that takes a word the parser keeps does nothing else. -/
theorem step_of_parseOk {s : State} {p : Port} {rest : List Act} {w : Word} {ws : List Word}
    (hsched : s.sched = .serve p :: rest) (hwait : (s.port p).waiting = none) (hsend : (s.host p).toSend = w :: ws)
    (hok : parseOk p ((s.port p).parse.push w) = true) :
    step s = .next (s.afterWord p rest ws ((s.port p).parse.push w)) := by
  rw [step_takeWord hsched hwait hsend, takeWord_of_parseOk (by simpa using hok), setParse_eq_afterWord]
  simp

/-- Settles O14: the two words that leave a parser state of R39. -/
theorem parserKeepsHeaderAndOperands : Obligations.ParserKeepsHeaderAndOperands := by
  intro s p rest w ws hsched hwait hsend
  refine ⟨fun hparse hl hpos => ?_, fun h ops hparse hl hlen => ?_⟩
  · have hok : parseOk p ((s.port p).parse.push w) = true := by
      rw [hparse]
      exact (parseOk_collecting p w []).2 ⟨hl, hpos⟩
    rw [step_of_parseOk hsched hwait hsend hok, hparse]
    rfl
  · have hok : parseOk p ((s.port p).parse.push w) = true := by
      rw [hparse]
      exact (parseOk_collecting p h (ops ++ [w])).2 ⟨hl, by simpa using hlen⟩
    rw [step_of_parseOk hsched hwait hsend hok, hparse]
    rfl

/-! ### A whole command delivered (R55, R70, R71) -/

/-- A port that has taken some but not all words of a command it accepts is in a parser state of R39. -/
theorem parseOk_of_wordsTaken {p : Port} {i : Instr} {x : Parse} {w : Word} {ws : List Word}
    (hp : i.wellFormed p = true) (h : wordsTaken x ++ w :: ws = encode i) : parseOk p x = true := by
  cases x with
  | idle => rfl
  | collecting hd ops =>
    obtain ⟨rfl, hops⟩ : hd = header i ∧ ops ++ w :: ws = operands i := List.cons.inj h
    obtain ⟨-, hlen, -⟩ := framing i
    refine (parseOk_collecting p _ ops).2 ⟨legal_header hp, ?_⟩
    rw [← hlen, ← hops, List.length_append, List.length_cons]
    omega

theorem run_one (M : Host.Core) (s : M.State) : M.run 1 s = M.step s := by
  rw [Host.Core.run]
  cases M.step s <;> rfl

theorem run_succ_of_next {M : Host.Core} {s t : M.State} (n : ℕ) (h : M.step s = .next t) :
    M.run (n + 1) s = M.run n t := by
  rw [Host.Core.run, h]

/-- From any point in a command: as many turns as it has words left take them and run it. -/
theorem core_run_delivers {p : Port} {i : Instr} (hp : i.wellFormed p = true) (rest : List Act) (ws todo : List Word) :
    ∀ (w : Word) (s : State), wordsTaken (s.port p).parse ++ w :: todo = encode i →
      s.sched = List.replicate (todo.length + 1) (.serve p) ++ rest → (s.port p).waiting = none →
      (s.host p).toSend = w :: todo ++ ws → fits p i s = true →
      Host.Core.run core (todo.length + 1) s = exec i (s.afterWord p rest ws .idle) := by
  induction todo with
  | nil =>
    intro w s hwords hsched hwait hsend hfits
    have hdec : decode p (wordsTaken (s.port p).parse ++ [w]) = .ok (i, []) := by
      rw [hwords, ← List.append_nil (encode i)]
      exact decode_encode_append hp []
    exact (run_one core s).trans (stepRunsTheDecodedCommand s p rest w ws i hsched hwait hsend hdec hfits)
  | cons w' todo ih =>
    intro w s hwords hsched hwait hsend hfits
    have hwords' : wordsTaken ((s.port p).parse.push w) ++ w' :: todo = encode i := by
      rw [wordsTaken_push, List.append_assoc]
      exact hwords
    have hkept := step_of_parseOk hsched hwait hsend (parseOk_of_wordsTaken hp hwords')
    refine (run_succ_of_next (M := core) _ hkept).trans ((ih w' _ ?_ ?_ ?_ ?_ ?_).trans ?_)
    · rwa [State.afterWord_port]
    · exact State.afterWord_sched ..
    · rwa [State.afterWord_port]
    · rw [State.afterWord_host]
      rfl
    · exact (fits_congr (by simp) (by simp)).trans hfits
    · rw [State.afterWord_afterWord]

/-- Settles O13: an Idle port has taken no word of the command yet, and is Idle again when it runs. -/
theorem deliveredWordsRunTheCommand : Obligations.DeliveredWordsRunTheCommand := by
  intro s p rest ws i hp hsched hwait hparse hsend hfits
  have hwords : wordsTaken (s.port p).parse ++ encode i = encode i := by rw [hparse]; rfl
  rw [← State.afterWord_parse_self, hparse]
  exact core_run_delivers hp rest ws (operands i) (header i) s hwords hsched hwait hsend hfits

end Sys2Proof.Machine
end

section
/-! PROOFS. The control commands of 40_control.md (family 40_control.md: O23 to O27, O29, O30, O40). What a PWR writes and
a PRD or CFGRD answers is said once for each kind of command, with the words that decode to it; the clamps go through
`clampF`'s branches, whose integers of units order the values. -/

namespace Sys2Proof.Machine

/-! ### The clamps (R78) -/

theorem value_lt_value {v w : Word} : value v < value w ↔ units v < units w := by
  unfold value
  rw [div_lt_div_iff_of_pos_right (by positivity), Int.cast_lt]

theorem value_le_value {v w : Word} : value v ≤ value w ↔ units v ≤ units w := by
  rw [← not_lt, value_lt_value, not_lt]

theorem units_lt_units_posInf {w : Word} (h : isFinite w = true) : units w < units posInf := by
  have hmag : magUnits w < magUnits posInf := (isFinite_iff_magUnits w).1 h
  have habs := natAbs_units w
  rw [units_of_nonneg (w := posInf) (by decide)]
  omega

theorem units_negInf_lt_units {w : Word} (h : isFinite w = true) : units negInf < units w := by
  have hneg := units_lt_units_posInf ((isFinite_neg32 w).trans h)
  rw [units_neg32] at hneg
  rw [show negInf = neg32 posInf from rfl, units_neg32]
  omega

theorem clampF_of_isNaN {x : Word} (lo hi : Word) (h : isNaN x = true) : clampF x lo hi = lo := if_pos h

theorem clampF_of_lt {x lo : Word} (hi : Word) (hx : isNaN x = false) (h : units x < units lo) :
    clampF x lo hi = lo := by
  rw [clampF, hx, if_neg Bool.false_ne_true, if_pos h]

theorem clampF_of_gt {x lo hi : Word} (hx : isNaN x = false) (hlo : units lo ≤ units x) (h : units hi < units x) :
    clampF x lo hi = hi := by
  rw [clampF, hx, if_neg Bool.false_ne_true, if_neg hlo.not_gt, if_pos h]

theorem clampF_of_mem {x lo hi : Word} (hx : isNaN x = false) (hlo : units lo ≤ units x) (hhi : units x ≤ units hi) :
    clampF x lo hi = if x = negZero then posZero else x := by
  rw [clampF, hx, if_neg Bool.false_ne_true, if_neg hlo.not_gt, if_neg hhi.not_gt]

/-- Settles O27: units order the finite words as their values do, and the infinities outside all of them. -/
theorem clampsFollowValues : Obligations.ClampsFollowValues := by
  refine ⟨fun u => ⟨rfl, clampI_mem u⟩, fun x lo hi hlo hhi _ _ hle => ⟨clampF_of_isNaN lo hi, ?_, ?_, fun hx => ?_⟩⟩
  · rintro rfl
    exact clampF_of_lt hi (isNaN_of_isInf isInf_negInf) (units_negInf_lt_units hlo)
  · rintro rfl
    exact clampF_of_gt (isNaN_of_isInf isInf_posInf) (units_lt_units_posInf hlo).le (units_lt_units_posInf hhi)
  · have hnan := isNaN_of_isFinite hx
    rw [value_lt_value, value_lt_value, value_le_value, value_le_value]
    rw [value_le_value] at hle
    exact ⟨clampF_of_lt hi hnan, fun h => clampF_of_gt hnan (hle.trans h.le) h, clampF_of_mem hnan⟩

/-! ### delayTime and the sample step (R83, R161) -/

section
variable (c : Cfg) (P : Params) (d : Word) (x : Lanes) (g : Stage)

theorem latchDelay_false : latchDelay c P false g = g := rfl

theorem quantizeStage_setDelayTime : quantizeStage { P with delayTime := d } x = quantizeStage P x := rfl

theorem decimate_setDelayTime : decimate { P with delayTime := d } x g = decimate P x g := rfl

theorem delayStage_setDelayTime : delayStage c { P with delayTime := d } x g = delayStage c P x g := rfl

theorem reverbStage_setDelayTime : reverbStage c { P with delayTime := d } x g = reverbStage c P x g := rfl

/-- A sample step that starts no block reads the latch and not delayTime. -/
theorem sampleStep_setDelayTime :
    sampleStep c { P with delayTime := d } false x g = sampleStep c P false x g := by
  simp only [sampleStep, cascade, latchDelay_false, quantizeStage_setDelayTime, decimate_setDelayTime,
    delayStage_setDelayTime, reverbStage_setDelayTime]

end

/-- Settles O40: the write changes delayTime only, which an SMP does not read. -/
theorem delayTimeWaitsForABlockStart : Obligations.DelayTimeWaitsForABlockStart := by
  intro v wl wr s s' t t' hwrite hsmp hsmp'
  obtain rfl : s.setParams { s.params with delayTime := clampDelayTime v } = s' := Host.Outcome.next.inj hwrite
  obtain ⟨-, rfl⟩ := sample_inv (B := false) hsmp
  obtain ⟨-, rfl⟩ := sample_inv (B := false) hsmp'
  simp [sampleStep_setDelayTime]

/-! ### The commands, one by one (R79 to R89) -/

theorem decode_encode {p : Port} {i : Instr} (hp : i.wellFormed p = true) : decode p (encode i) = .ok (i, []) := by
  have h := decode_encode_append hp []
  rwa [List.append_nil] at h

/-- A control command of words `ws` that writes the parameters `P`. -/
theorem decode_exec_of_writeParams {i : Instr} {ws : List Word} {P : Params} {s : State}
    (hp : i.wellFormed .ctrl = true) (hws : encode i = ws) (hexec : exec i s = writeParams P s) :
    decode .ctrl ws = .ok (i, []) ∧ exec i s = .next { s with params := P } :=
  ⟨hws ▸ decode_encode hp, hexec.trans (writeParams_eq P s)⟩

/-- A control command of words `ws` that answers the word `w`. -/
theorem decode_exec_of_answer {i : Instr} {ws : List Word} {w : Word} {s : State}
    (hp : i.wellFormed .ctrl = true) (hws : encode i = ws) (hexec : exec i s = answer w s) :
    decode .ctrl ws = .ok (i, []) ∧ exec i s = .next { s with ctrl := { s.ctrl with resp := s.ctrl.resp ++ [w] } } :=
  ⟨hws ▸ decode_encode hp, hexec.trans (answer_eq w s)⟩

/-- Settles O23: every port accepts NOP. -/
theorem nopDoesNothing : Obligations.NopDoesNothing :=
  ⟨fun _ => decode_encode (i := .nop) rfl, fun _ => rfl⟩

/-- Settles O24: both commands write a parameter clamped by `clampI`. -/
theorem pwrStoresClampedIntegers : Obligations.PwrStoresClampedIntegers := by
  intro v s
  obtain ⟨hdec, hexec⟩ := decode_exec_of_writeParams (i := .pwrBitDepth v) (s := s) rfl rfl rfl
  exact ⟨hdec, hexec, decode_exec_of_writeParams rfl rfl rfl⟩

/-- Settles O25: each command writes a parameter clamped by `clampF`. -/
theorem pwrStoresClampedDelayParameters : Obligations.PwrStoresClampedDelayParameters := by
  intro v s
  obtain ⟨hdecTime, hexecTime⟩ := decode_exec_of_writeParams (i := .pwrDelayTime v) (s := s) rfl rfl rfl
  obtain ⟨hdecFb, hexecFb⟩ := decode_exec_of_writeParams (i := .pwrDelayFeedback v) (s := s) rfl rfl rfl
  exact ⟨hdecTime, hexecTime, hdecFb, hexecFb, decode_exec_of_writeParams rfl rfl rfl⟩

/-- Settles O26: both commands write a parameter clamped by `clampF`. -/
theorem pwrStoresClampedReverbParameters : Obligations.PwrStoresClampedReverbParameters := by
  intro v s
  obtain ⟨hdec, hexec⟩ := decode_exec_of_writeParams (i := .pwrReverbMix v) (s := s) rfl rfl rfl
  exact ⟨hdec, hexec, decode_exec_of_writeParams rfl rfl rfl⟩

/-- Settles O29, row by row of the table. -/
theorem prdReturnsTheStoredParameter : Obligations.PrdReturnsTheStoredParameter := by
  intro i h w s hrow
  simp only [List.mem_cons, Prod.mk.injEq, List.not_mem_nil, or_false] at hrow
  obtain ⟨rfl, rfl, rfl⟩ | ⟨rfl, rfl, rfl⟩ | ⟨rfl, rfl, rfl⟩ | ⟨rfl, rfl, rfl⟩ | ⟨rfl, rfl, rfl⟩ | ⟨rfl, rfl, rfl⟩ |
    ⟨rfl, rfl, rfl⟩ := hrow
  all_goals exact decode_exec_of_answer rfl rfl rfl

/-- Settles O30, row by row of the table. -/
theorem cfgrdReturnsTheWord : Obligations.CfgrdReturnsTheWord := by
  intro i h w s hrow
  simp only [List.mem_cons, Prod.mk.injEq, List.not_mem_nil, or_false] at hrow
  obtain ⟨rfl, rfl, rfl⟩ | ⟨rfl, rfl, rfl⟩ | ⟨rfl, rfl, rfl⟩ | ⟨rfl, rfl, rfl⟩ | ⟨rfl, rfl, rfl⟩ | ⟨rfl, rfl, rfl⟩ |
    ⟨rfl, rfl, rfl⟩ | ⟨rfl, rfl, rfl⟩ | ⟨rfl, rfl, rfl⟩ := hrow
  all_goals exact decode_exec_of_answer rfl rfl rfl

end Sys2Proof.Machine
end

section
/-! PROOFS. The sample step of 41_sample.md (family 41_sample.md: O31, O32, O41). A command is a parameter write, a
sample step, or one that at most appends to the CTRL queue. `cascade_eq_trace` says once what a sample step does, in the
values of the pseudo-code; at the reset settings every product and sum on the way to the limiter is exact. -/

namespace Sys2Proof.Machine

/-! ### What each kind of command may change (R80, R95) -/

/-- A PWR answers the state with other parameters (R80). -/
theorem exec_of_isParamWrite {i : Instr} (hi : isParamWrite i = true) (s : State) :
    ∃ P, exec i s = .next (s.setParams P) := by
  cases i with
  | pwrBitDepth v | pwrSampleRateDiv v | pwrDelayTime v | pwrDelayFeedback v | pwrDelayMix v | pwrReverbMix v
  | pwrReverbSize v => exact ⟨_, writeParams_eq _ s⟩
  | _ => cases hi

/-- NOP, PRD and CFGRD answer the state with more words, or none, on CTRL (R79, R88, R89). -/
theorem exec_of_not_sample_not_paramWrite {i : Instr} (hsample : isSample i = false) (hparam : isParamWrite i = false)
    (s : State) : ∃ o, exec i s = .next (s.setPort .ctrl { s.ctrl with resp := s.ctrl.resp ++ o }) := by
  cases i with
  | nop => exact ⟨[], by rw [List.append_nil]; rfl⟩
  | pwrBitDepth v | pwrSampleRateDiv v | pwrDelayTime v | pwrDelayFeedback v | pwrDelayMix v | pwrReverbMix v
  | pwrReverbSize v => cases hparam
  | smp wl wr | smpB wl wr => cases hsample
  | prdBitDepth | prdSampleRateDiv | prdDelayTime | prdDelayFeedback | prdDelayMix | prdReverbMix | prdReverbSize
  | cfgrdFs | cfgrdDcap | cfgrdCombLen0 | cfgrdCombLen1 | cfgrdCombLen2 | cfgrdCombLen3 | cfgrdApLen | cfgrdApGain
  | cfgrdStatus => exact ⟨[_], answer_eq _ s⟩

/-- Settles O31, by the kind of the command: a PWR, a sample step, or another. -/
theorem onlySampleStepsChangeStageState : Obligations.OnlySampleStepsChangeStageState := by
  intro i s t h
  cases hparam : isParamWrite i with
  | true =>
    obtain ⟨P, hexec⟩ := exec_of_isParamWrite hparam s
    obtain rfl := Host.Outcome.next.inj (hexec.symm.trans h)
    exact ⟨fun _ => rfl, fun _ => rfl, nofun⟩
  | false =>
    cases hsample : isSample i with
    | true => exact ⟨nofun, nofun, nofun⟩
    | false =>
      obtain ⟨o, hexec⟩ := exec_of_not_sample_not_paramWrite hsample hparam s
      obtain rfl := Host.Outcome.next.inj (hexec.symm.trans h)
      exact ⟨fun _ => rfl, nofun, fun _ _ => rfl⟩

/-! ### The sample step in the values of the pseudo-code (R90 to R129) -/

/-- The stage state after the latch and the decimator (R106, R111). -/
def Trace.decimated (T : Trace) (s : State) : Stage :=
  { s.stage with latch := T.D, heldL := T.sL, heldR := T.sR, ctr := (s.stage.ctr + 1) % s.params.sampleRateDiv }

/-- The stage state after the delay (R114, R115). -/
def Trace.delayed (T : Trace) (s : State) : Stage :=
  { T.decimated s with
    dl := memWrite s.stage.dl s.stage.dHead (delayWrite s.params T.sL T.dL)
    dr := memWrite s.stage.dr s.stage.dHead (delayWrite s.params T.sR T.dR)
    dHead := (s.stage.dHead + 1) % s.cfg.dcap }

/-- The stage state after the reverb, and so after the step (R124, R126 to R128). -/
def Trace.reverberated (T : Trace) (s : State) : Stage :=
  (allpassStage s.cfg T.pre (combStage s.cfg s.params T.m (T.delayed s))).2

section
variable (B : Bool) (wl wr : Word) (s : State)

theorem latchDelay_eq_trace :
    latchDelay s.cfg s.params B s.stage = { s.stage with latch := (trace B wl wr s).D } := by
  cases B <;> rfl

theorem decimate_eq_trace :
    decimate s.params (quantizeStage s.params ⟨wl, wr⟩) (latchDelay s.cfg s.params B s.stage) =
      (⟨(trace B wl wr s).sL, (trace B wl wr s).sR⟩, (trace B wl wr s).decimated s) := by
  rw [latchDelay_eq_trace B wl wr]
  by_cases hctr : s.stage.ctr = 0 <;> simp [decimate, quantizeStage, trace, Trace.decimated, hctr]

theorem readIndex_eq_trace : readIndex s.cfg ((trace B wl wr s).decimated s) =
    (((s.stage.dHead : ℤ) - ((trace B wl wr s).D : ℤ) + (2 * s.cfg.fs : ℤ)) % (2 * s.cfg.fs : ℤ)).toNat := by
  rw [readIndex, Cfg.dcap, Nat.cast_mul, Nat.cast_two]
  rfl

theorem delayStage_eq_trace :
    delayStage s.cfg s.params ⟨(trace B wl wr s).sL, (trace B wl wr s).sR⟩ ((trace B wl wr s).decimated s) =
      (⟨(trace B wl wr s).wL, (trace B wl wr s).wR⟩, (trace B wl wr s).delayed s) := by
  rw [delayStage, readIndex_eq_trace]
  rfl

theorem reverbStage_eq_trace :
    reverbStage s.cfg s.params ⟨(trace B wl wr s).wL, (trace B wl wr s).wR⟩ ((trace B wl wr s).delayed s) =
      (⟨(trace B wl wr s).yL, (trace B wl wr s).yR⟩, (trace B wl wr s).reverberated s) :=
  rfl

/-- The limiter's input and the new stage state of a sample step. -/
theorem cascade_eq_trace :
    cascade s.cfg s.params B ⟨wl, wr⟩ s.stage =
      (⟨(trace B wl wr s).yL, (trace B wl wr s).yR⟩, (trace B wl wr s).reverberated s) := by
  simp only [cascade, decimate_eq_trace, delayStage_eq_trace, reverbStage_eq_trace]

theorem sampleStep_eq_trace :
    sampleStep s.cfg s.params B ⟨wl, wr⟩ s.stage =
      (⟨tanhRN (trace B wl wr s).yL, tanhRN (trace B wl wr s).yR⟩, (trace B wl wr s).reverberated s) := by
  rw [sampleStep, cascade_eq_trace]
  rfl

end

/-- Settles O32: the answer of a sample step, in the values of the pseudo-code. -/
theorem sampleStepAnswersTwoLanes : Obligations.SampleStepAnswersTwoLanes := by
  intro B wl wr s hr
  refine ⟨(trace B wl wr s).reverberated s, ?_⟩
  rw [exec_sampleCommand, sample_next B wl wr s hr, sampleStep_eq_trace]
  rfl

/-! ### Exact results -/

/-- A finite word is its own value, rounded. -/
theorem isRounded_value {w : Word} (hw : isFinite w = true) : IsRounded ((value w : ℚ) : ℝ) w := by
  have h := (roundsToMag_unitsOfMag ((isFinite_iff w).1 hw)).isRounded (signBit w) (Nat.cast_nonneg _)
  rwa [packWord_fields, ← cast_value] at h

/-- Rounding a finite word's value changes nothing but, for zero, the sign. -/
theorem IsRounded.exact {v w : Word} (hw : isFinite w = true) (h : IsRounded ((value w : ℚ) : ℝ) v) :
    isFinite v = true ∧ value v = value w := by
  have hself := isRounded_value hw
  unfold IsRounded at h hself
  split_ifs at h hself with hlt hneg
  · obtain ⟨hfin, hnear, -⟩ := h
    have hzero := hnear w hw
    rw [sub_self, abs_zero, abs_nonpos_iff, sub_eq_zero, Rat.cast_inj] at hzero
    exact ⟨hfin, hzero.symm⟩
  · subst hself; cases hw
  · subst hself; cases hw

/-- Adding a zero keeps the value. -/
theorem add32_of_value_zero {a b : Word} (ha : isFinite a = true) (hb : isFinite b = true) (h : value b = 0) :
    isFinite (add32 a b) = true ∧ value (add32 a b) = value a := by
  have hround := isRounded_add32 ha hb
  rw [h, add_zero] at hround
  exact hround.exact ha

theorem value_posZero : value posZero = 0 := by rw [value, units_posZero, Int.cast_zero, zero_div]

theorem value_one32 : value one32 = 1 := by
  rw [value, show units one32 = 2 ^ 149 by decide, Int.cast_pow, Int.cast_ofNat, div_self (by positivity)]

/-- A product with one keeps the value. -/
theorem mul32_one32 {a : Word} (ha : isFinite a = true) :
    isFinite (mul32 a one32) = true ∧ value (mul32 a one32) = value a := by
  obtain ⟨hround, -⟩ := mulRoundsTheExactProduct a one32 ha (by decide)
  rw [value_one32, mul_one] at hround
  exact hround.exact ha

/-- A product with +0 is a zero. -/
theorem mul32_posZero {a : Word} (ha : isFinite a = true) :
    isFinite (mul32 a posZero) = true ∧ value (mul32 a posZero) = 0 := by
  obtain ⟨hround, -⟩ := mulRoundsTheExactProduct a posZero ha (by decide)
  rw [value_posZero, mul_zero, ← value_posZero] at hround
  have h := hround.exact (by decide)
  rwa [value_posZero] at h

/-! ### The reset settings (R97, R107, R130) -/

/-- At bit depth 16 the quantizer passes its input (R99). -/
theorem quantize_reset (x : Word) : quantize x Params.reset.bitDepth = x := if_pos rfl

/-- With delayMix = +0 the delay passes its input, while the delayed word is finite (R116). -/
theorem delayMixed_reset {x d : Word} (hx : isFinite x = true) (hd : isFinite d = true) :
    isFinite (delayMixed Params.reset x d) = true ∧ value (delayMixed Params.reset x d) = value x := by
  obtain ⟨hdry, hdryValue⟩ := mul32_one32 hx
  obtain ⟨hwet, hwetValue⟩ := mul32_posZero hd
  have hcomplement : sub32 one32 Params.reset.delayMix = one32 := by decide +kernel
  rw [delayMixed, hcomplement, ← hdryValue]
  exact add32_of_value_zero hdry hwet hwetValue

/-- With reverbMix = +0 the reverb passes its input, while the diffused word is finite (R129, R130). -/
theorem reverbMixed_reset {w dif : Word} (hw : isFinite w = true) (hdif : isFinite dif = true) :
    isFinite (reverbMixed Params.reset w dif) = true ∧ value (reverbMixed Params.reset w dif) = value w := by
  obtain ⟨hwet, hwetValue⟩ := mul32_posZero hdif
  exact add32_of_value_zero hw hwet hwetValue

/-- One lane through delay and reverb. -/
theorem lane_reset {x d dif : Word} (hx : isFinite x = true) (hd : isFinite d = true) (hdif : isFinite dif = true) :
    isFinite (reverbMixed Params.reset (delayMixed Params.reset x d) dif) = true ∧
      value (reverbMixed Params.reset (delayMixed Params.reset x d) dif) = value x := by
  obtain ⟨hw, hwValue⟩ := delayMixed_reset hx hd
  obtain ⟨hy, hyValue⟩ := reverbMixed_reset hw hdif
  exact ⟨hy, hyValue.trans hwValue⟩

/-- Every read of a memory of finite elements is finite. -/
theorem isFinite_memRead {m : Memory} (h : m.all (fun c => isFinite c.2) = true) (i : ℕ) :
    isFinite (memRead m i) = true := by
  induction m with
  | nil => rw [memRead_nil]; decide
  | cons c rest ih =>
    obtain ⟨hc, hrest⟩ := Bool.and_eq_true_iff.1 h
    obtain ⟨j, w⟩ := c
    rw [memRead_cons]
    split_ifs
    · exact hc
    · exact ih hrest

/-- The delay reads finite words from memories of finite elements. -/
theorem isFinite_trace_dL_dR (B : Bool) (wl wr : Word) {s : State} (h : s.stage.finite = true) :
    isFinite (trace B wl wr s).dL = true ∧ isFinite (trace B wl wr s).dR = true := by
  simp only [Stage.finite, Bool.and_eq_true] at h
  obtain ⟨⟨⟨⟨⟨⟨hdl, hdr⟩, -⟩, -⟩, -⟩, -⟩, -⟩ := h
  exact ⟨isFinite_memRead hdl _, isFinite_memRead hdr _⟩

section
variable (B : Bool) (wl wr : Word) (s : State)

theorem trace_yL : (trace B wl wr s).yL =
    reverbMixed s.params (delayMixed s.params (trace B wl wr s).sL (trace B wl wr s).dL) (trace B wl wr s).dif := rfl

theorem trace_yR : (trace B wl wr s).yR =
    reverbMixed s.params (delayMixed s.params (trace B wl wr s).sR (trace B wl wr s).dR) (trace B wl wr s).dif := rfl

/-- With the counter at 0 the decimator captures the quantized input (R106, R107). -/
theorem trace_held_of_ctr_zero (h : s.stage.ctr = 0) :
    (trace B wl wr s).sL = quantize wl s.params.bitDepth ∧ (trace B wl wr s).sR = quantize wr s.params.bitDepth :=
  ⟨if_pos h, if_pos h⟩

end

/-- Settles O41: quantizer and decimator pass the sample, delay and reverb add zeros to it. -/
theorem resetSettingsPassTheInput : Obligations.ResetSettingsPassTheInput := by
  intro B wl wr s hparams hctr hfinite hwl hwr hdif
  obtain ⟨hdL, hdR⟩ := isFinite_trace_dL_dR B wl wr hfinite
  obtain ⟨hsL, hsR⟩ := trace_held_of_ctr_zero B wl wr s hctr
  rw [hparams, quantize_reset] at hsL hsR
  rw [trace_yL, trace_yR, hparams, hsL, hsR]
  obtain ⟨hyL, hyLValue⟩ := lane_reset hwl hdL hdif
  obtain ⟨hyR, hyRValue⟩ := lane_reset hwr hdR hdif
  exact ⟨hyL, hyLValue, hyR, hyRValue⟩

end Sys2Proof.Machine
end

section
/-! PROOFS. The quantizer of 42_bitcrusher.md (family 42_bitcrusher.md: O52). `quantizeSteps` is the number of steps the
quantizer rounds to; that many steps are some finite word's value (R102), so rounding to binary32 changes nothing. -/

namespace Sys2Proof.Machine

/-! ### Words made from exact units -/

/-- A fraction that is some finite word's units is rounded to that word. -/
theorem roundMag_eq_of_exact {n d k : ℕ} (hd : 0 < d) (hk : k < 0x7F800000) (h : unitsOfMag k * d = n) :
    roundMag n d = k :=
  le_antisymm (roundMag_le_of_le hd hk h.ge) (le_roundMag_of_le hd hk h.le)

theorem units_packWord {neg : Bool} {k : ℕ} (hk : k < 2 ^ 31) :
    units (packWord neg k) = if neg then -(unitsOfMag k : ℤ) else unitsOfMag k := by
  rw [units, signBit_packWord hk, magUnits_packWord hk]

/-- A value far enough above the subnormals, divided by 2^k, is a value again: its exponent drops by k. -/
theorem exists_mag_div_two_pow {m k : ℕ} (hm : m < 0x7F800000) (h : 2 ^ (k + 24) ≤ unitsOfMag m) :
    ∃ j < 0x7F800000, unitsOfMag j * 2 ^ k = unitsOfMag m := by
  obtain ⟨s, q, rfl, hq, hs⟩ := exists_binade m
  rw [unitsOfMag_binade hq.le hs] at h ⊢
  have hks : k < s := by
    have hlt : 2 ^ (k + 24) < 2 ^ (s + 24) :=
      calc 2 ^ (k + 24) ≤ q * 2 ^ s := h
        _ < 2 ^ 24 * 2 ^ s := Nat.mul_lt_mul_of_pos_right hq (by positivity)
        _ = 2 ^ (s + 24) := by rw [← pow_add, add_comm]
    have := (Nat.pow_lt_pow_iff_right one_lt_two).1 hlt
    omega
  refine ⟨(s - k) * 2 ^ 23 + q,
    (Nat.add_le_add_right (Nat.mul_le_mul_right _ (Nat.sub_le s k)) q).trans_lt hm, ?_⟩
  rw [unitsOfMag_binade hq.le (by omega), mul_assoc, ← pow_add, Nat.sub_add_cancel hks.le]

/-! ### The number of steps (R99, R100) -/

/-- The number of steps of 2^-k the quantizer rounds `x` to, counted from the units of `x`. -/
def quantizeSteps (x : Word) (k : ℕ) : ℤ := (2 * (units x * 2 ^ k) + 2 ^ 149) / 2 ^ 150

/-- The number of steps is floor(y + 1/2) of the scaled value y (R99). -/
theorem floor_value_eq_quantizeSteps (x : Word) (k : ℕ) : ⌊value x * 2 ^ k + 1 / 2⌋ = quantizeSteps x k := by
  have hfrac : value x * 2 ^ k + 1 / 2 = ((2 * (units x * 2 ^ k) + 2 ^ 149 : ℤ) : ℚ) / (2 ^ 150 : ℕ) := by
    have hunit : (2 : ℚ) ^ 149 ≠ 0 := by positivity
    rw [value, Nat.cast_pow, Nat.cast_ofNat, pow_succ 2 149, Int.cast_add, Int.cast_mul, Int.cast_mul, Int.cast_pow,
      Int.cast_pow, Int.cast_ofNat]
    generalize (2 : ℚ) ^ 149 = p at *
    field_simp
  rw [hfrac, Rat.floor_intCast_div_natCast, quantizeSteps, Nat.cast_pow, Nat.cast_ofNat]

/-- What the quantizer answers below bit depth 16, by the number of steps. -/
theorem quantize_of_finite {x : Word} {b : ℕ} (hx : isFinite x = true) (hb : b ≠ 16) :
    quantize x b =
      if quantizeSteps x (b - 1) = 0 then (if signBit x then negZero else posZero)
      else packWord (decide (quantizeSteps x (b - 1) < 0))
        (roundMag ((quantizeSteps x (b - 1)).natAbs * 2 ^ 149) (2 ^ (b - 1))) := by
  rw [quantize, if_neg hb, isNaN_of_isFinite hx, isInf_of_isFinite hx, Bool.or_false, if_neg Bool.false_ne_true,
    quantizeSteps]

theorem quantize_of_not_finite {x : Word} (b : ℕ) (hx : isFinite x = false) : quantize x b = x := by
  have hkind : (isNaN x || isInf x) = true := by
    rw [Bool.eq_false_iff, Ne, isFinite_iff] at hx
    rw [Bool.or_eq_true, isNaN_iff, isInf_iff]
    omega
  rw [quantize, if_pos hkind, ite_self]

/-! ### The steps are representable (R102) -/

/-- A value that is a multiple of the step is that many steps. -/
theorem natAbs_quantizeSteps_of_multiple {x : Word} {j k : ℕ} (hk : k ≤ 149) (h : magUnits x = j * 2 ^ (149 - k)) :
    (quantizeSteps x k).natAbs = j := by
  have hscaled : (units x * 2 ^ k).natAbs = j * 2 ^ 149 := by
    rw [Int.natAbs_mul, natAbs_units, h, Int.natAbs_pow, mul_assoc, show (2 : ℤ).natAbs = 2 from rfl, ← pow_add,
      Nat.sub_add_cancel hk]
  unfold quantizeSteps
  omega

/-- A value below 2^23 steps is rounded to at most 2^23 steps. -/
theorem natAbs_quantizeSteps_le {x : Word} {k : ℕ} (hk : k ≤ 149) (h : magUnits x < 2 ^ (149 - k + 23)) :
    (quantizeSteps x k).natAbs ≤ 2 ^ 23 := by
  have hscaled : (units x * 2 ^ k).natAbs < 2 ^ 172 := by
    rw [Int.natAbs_mul, natAbs_units, Int.natAbs_pow]
    calc magUnits x * 2 ^ k < 2 ^ (149 - k + 23) * 2 ^ k := Nat.mul_lt_mul_of_pos_right h (by positivity)
      _ = 2 ^ 172 := by rw [← pow_add]; congr 1; omega
  unfold quantizeSteps
  omega

/-- The steps the quantizer rounds to are some finite word's value: from 2^23 steps on it is the word itself, and below
that the number of steps fits in a significand. -/
theorem exists_mag_quantizeSteps {x : Word} {k : ℕ} (hx : isFinite x = true) (hk : k ≤ 14)
    (hn : quantizeSteps x k ≠ 0) :
    ∃ j < 0x7F800000, unitsOfMag j * 2 ^ k = (quantizeSteps x k).natAbs * 2 ^ 149 := by
  obtain hsmall | ⟨j, hj⟩ := unitsOfMag_lt_or_multiple (magBits x) (149 - k)
  · have hle := natAbs_quantizeSteps_le (by omega) hsmall
    obtain ⟨m, hm, hval⟩ := exists_mag_of_lt (n := (quantizeSteps x k).natAbs) (by omega)
    rw [← hval]
    refine exists_mag_div_two_pow hm ?_
    calc 2 ^ (k + 24) ≤ 2 ^ 149 := Nat.pow_le_pow_right two_pos (by omega)
      _ ≤ (quantizeSteps x k).natAbs * 2 ^ 149 := Nat.le_mul_of_pos_left _ (Int.natAbs_pos.2 hn)
      _ = unitsOfMag m := hval.symm
  · refine ⟨magBits x, (isFinite_iff x).1 hx, ?_⟩
    rw [natAbs_quantizeSteps_of_multiple (by omega) hj, hj, mul_assoc, ← pow_add, Nat.sub_add_cancel (by omega)]

/-- A word whose magnitude is |n| steps of 2^-k, with the sign of n, has the value n / 2^k. -/
theorem value_packWord_of_steps {n : ℤ} {j k : ℕ} (hj : j < 2 ^ 31) (h : unitsOfMag j * 2 ^ k = n.natAbs * 2 ^ 149) :
    value (packWord (decide (n < 0)) j) = (n : ℚ) / 2 ^ k := by
  have hunits : units (packWord (decide (n < 0)) j) * 2 ^ k = n * 2 ^ 149 := by
    rw [units_packWord hj]
    zify at h
    by_cases hneg : n < 0
    · rw [decide_eq_true hneg, if_pos rfl, neg_mul, h, abs_of_neg hneg, neg_mul, neg_neg]
    · rw [decide_eq_false hneg, if_neg Bool.false_ne_true, h, abs_of_nonneg (not_lt.1 hneg)]
  rw [value, div_eq_div_iff (by positivity) (by positivity)]
  exact_mod_cast hunits

/-- Settles O52: the model's integer is floor(y + 1/2), and so many steps are some word's value. -/
theorem quantizerRoundsToTheStep : Obligations.QuantizerRoundsToTheStep := by
  refine ⟨fun x => if_pos rfl, fun x b => quantize_of_not_finite b, fun x b hx _ hb => ?_⟩
  rw [floor_value_eq_quantizeSteps, quantize_of_finite hx (by omega)]
  refine ⟨fun hzero => if_pos hzero, fun hn => ?_⟩
  obtain ⟨j, hj, hsteps⟩ := exists_mag_quantizeSteps hx (by omega) hn
  rw [if_neg hn, roundMag_eq_of_exact (by positivity) hj hsteps]
  exact ⟨isFinite_packWord hj, value_packWord_of_steps (by omega) hsteps⟩

end Sys2Proof.Machine
end

section
/-! PROOFS. The decimator of 43_rate_reducer.md (family 43_rate_reducer.md: O33). `Trace.decimated` writes the held
registers and the counter; the delay and the reverb after it leave them as they are. -/

namespace Sys2Proof.Machine

/-! ### The stages after the decimator keep its registers (R105, R106) -/

section
variable (T : Trace) (s : State)

@[simp] theorem Trace.reverberated_heldL : (T.reverberated s).heldL = T.sL := rfl

@[simp] theorem Trace.reverberated_heldR : (T.reverberated s).heldR = T.sR := rfl

@[simp] theorem Trace.reverberated_ctr :
    (T.reverberated s).ctr = (s.stage.ctr + 1) % s.params.sampleRateDiv := rfl

end

/-! ### The sample commands and the decimator's output (R90, R106) -/

section
variable (B : Bool) (wl wr : Word) (s : State)

/-- The whole next state of a sample command, in the values of the pseudo-code (R90). -/
theorem exec_sampleCommand_eq_trace (h : indicesInRange s.cfg s.stage = true) :
    exec (sampleCommand B wl wr) s = .next ((s.setStage ((trace B wl wr s).reverberated s)).setPort .smpl
      { s.smpl with resp := s.smpl.resp ++ [tanhRN (trace B wl wr s).yL, tanhRN (trace B wl wr s).yR] }) := by
  rw [exec_sampleCommand, sample_next B wl wr s h, sampleStep_eq_trace]

theorem trace_sL : (trace B wl wr s).sL =
    if s.stage.ctr = 0 then quantize wl s.params.bitDepth else s.stage.heldL := rfl

theorem trace_sR : (trace B wl wr s).sR =
    if s.stage.ctr = 0 then quantize wr s.params.bitDepth else s.stage.heldR := rfl

end

/-- Settles O33: the held registers of the next state are the words stage 2 puts out, and no later stage writes the
counter. -/
theorem decimatorCapturesAndCounts : Obligations.DecimatorCapturesAndCounts := by
  intro B wl wr s hr
  exact ⟨_, exec_sampleCommand_eq_trace B wl wr s hr,
    (Trace.reverberated_heldL _ s).trans (trace_sL B wl wr s),
    (Trace.reverberated_heldR _ s).trans (trace_sR B wl wr s),
    Trace.reverberated_ctr _ s, (Trace.reverberated_heldL _ s).symm, (Trace.reverberated_heldR _ s).symm⟩

end Sys2Proof.Machine
end

section
/-! PROOFS. The delay of 44_delay.md (family 44_delay.md: O34, O35, O42, O43). `Trace.delayed` writes the latch, the
delay memories and their head; the reverb after it leaves them as they are. -/

namespace Sys2Proof.Machine

/-! ### The delay's state after the step (R111, R114, R115) -/

section
variable (T : Trace) (s : State)

@[simp] theorem Trace.reverberated_latch : (T.reverberated s).latch = T.D := rfl

@[simp] theorem Trace.reverberated_dHead : (T.reverberated s).dHead = (s.stage.dHead + 1) % s.cfg.dcap := rfl

@[simp] theorem Trace.reverberated_dl :
    (T.reverberated s).dl = memWrite s.stage.dl s.stage.dHead (delayWrite s.params T.sL T.dL) := rfl

@[simp] theorem Trace.reverberated_dr :
    (T.reverberated s).dr = memWrite s.stage.dr s.stage.dHead (delayWrite s.params T.sR T.dR) := rfl

end

section
variable (wl wr : Word) (s : State)

/-- Without a block start the latch is used as it is (R111). -/
theorem trace_D_smp : (trace false wl wr s).D = s.stage.latch := rfl

/-- At a block start the latch is computed from delayTime (R111). -/
theorem trace_D_smpB : (trace true wl wr s).D = delayLength s.cfg.fs s.params.delayTime := rfl

end

/-! ### The latch (R111) -/

/-- Only SMP.B moves the latch: SMP takes it as it is, and the other commands leave the stage state alone. -/
theorem exec_latch {i : Instr} {s t : State} (hi : ∀ wl wr, i ≠ .smpB wl wr) (h : exec i s = .next t) :
    t.stage.latch = s.stage.latch := by
  cases i with
  | smpB wl wr => exact absurd rfl (hi wl wr)
  | smp wl wr =>
    obtain ⟨-, rfl⟩ := sample_inv h
    rw [State.setPort_stage, State.setStage_stage, sampleStep_eq_trace, Trace.reverberated_latch, trace_D_smp]
  | _ => rw [(onlySampleStepsChangeStageState _ s t h).1 rfl]

/-- Settles O34: the stages after the latch keep it. -/
theorem latchMovesOnlyAtBlockStart : Obligations.LatchMovesOnlyAtBlockStart := by
  refine ⟨fun wl wr s hr => ⟨_, exec_sampleCommand_eq_trace true wl wr s hr, ?_⟩, fun i s t => exec_latch,
    fun c => rfl⟩
  rw [State.setPort_stage, State.setStage_stage, Trace.reverberated_latch, trace_D_smpB]
  rfl

/-- Settles O43 by the bound of the rounded product f32(1.9) × FS. -/
theorem delayLengthIsBelowCapacity : Obligations.DelayLengthIsBelowCapacity := by
  intro c P hc hP
  obtain ⟨hpos, hle⟩ := (cfgInRange_of_wf hc).fs
  exact delayLength_lt hpos hle ((Params.ok_iff P).1 hP).delayTime

/-! ### The delay memories (R113 to R115) -/

/-- A write to a memory in order changes the element at its index and no other (R47). -/
theorem LineOk.writtenAt {n head : ℕ} {m : Memory} (h : LineOk n head m) (v : Word) :
    WrittenAt head v m (memWrite m head v) := by
  obtain ⟨hwf, -⟩ := Bool.and_eq_true_iff.1 h.memory
  exact ⟨by rw [memRead_memWrite _ _ _ hwf, if_pos rfl], fun j hj => by rw [memRead_memWrite _ _ _ hwf, if_neg hj]⟩

/-- In a stage whose lines are in order every head is inside its memory (R45). -/
theorem Stage.InRange.indicesInRange {c : Cfg} {g : Stage} (h : g.InRange c) : indicesInRange c g = true := by
  simp [Machine.indicesInRange, h.dl.head_lt, h.comb0.head_lt, h.comb1.head_lt, h.comb2.head_lt, h.comb3.head_lt,
    h.ap.head_lt]

/-- Settles O35: the delay writes at the head of each memory, and the reverb keeps what it wrote. -/
theorem delayLineWritesAtTheHead : Obligations.DelayLineWritesAtTheHead := by
  intro B wl wr s hok
  have hs := (Stage.ok_iff s.cfg s.stage).1 hok
  refine ⟨_, exec_sampleCommand_eq_trace B wl wr s hs.indicesInRange, ?_⟩
  rw [State.setPort_stage, State.setStage_stage, Trace.reverberated_dl, Trace.reverberated_dr,
    Trace.reverberated_dHead]
  exact ⟨hs.dl.writtenAt _, hs.dr.writtenAt _, rfl⟩

/-! ### A delayed word that is not finite (R120) -/

/-- A word that is not finite is a NaN or an infinity. -/
theorem isNaN_or_isInf {w : Word} (h : isFinite w = false) : isNaN w = true ∨ isInf w = true := by
  obtain ⟨hnan, -, -⟩ | ⟨-, hinf, -⟩ | ⟨-, -, hfin⟩ := word_kinds w
  · exact .inl hnan
  · exact .inr hinf
  · rw [hfin] at h; cases h

/-- A product with a word that is not finite is not finite: NaN, or an infinity. -/
theorem isFinite_mul32_of_not_finite_left {a : Word} (b : Word) (ha : isFinite a = false) :
    isFinite (mul32 a b) = false := by
  obtain hnan | hinf := isNaN_or_isInf ha
  · rw [mul32_of_nan (.inl hnan)]; rfl
  cases hb : isNaN b with
  | true => rw [mul32_of_nan (.inr hb)]; rfl
  | false =>
    cases hb0 : isZero b with
    | true => rw [(mul32_inf_zero hinf hb0).1]; rfl
    | false =>
      rw [mul32_inf (.inl hinf) (isNaN_of_isInf hinf) hb (isZero_of_isInf hinf) hb0]
      split_ifs <;> rfl

/-- A sum with a word that is not finite is not finite: NaN, or an infinity. -/
theorem isFinite_add32_of_not_finite_right (a : Word) {b : Word} (hb : isFinite b = false) :
    isFinite (add32 a b) = false := by
  obtain hnan | hinf := isNaN_or_isInf hb
  · rw [add32_of_nan (.inr hnan)]; rfl
  cases ha : isFinite a with
  | true => rwa [(add32_inf_finite hinf ha).2]
  | false =>
    obtain hnan | hinfa := isNaN_or_isInf ha
    · rw [add32_of_nan (.inl hnan)]; rfl
    · rw [add32_inf_inf hinfa hinf]
      split_ifs
      · exact ha
      · rfl

/-- The word written back for a delayed word that is not finite is not finite, whatever delayFeedback is (R120). -/
theorem isFinite_delayWrite_of_not_finite (P : Params) (x : Word) {d : Word} (hd : isFinite d = false) :
    isFinite (delayWrite P x d) = false :=
  isFinite_add32_of_not_finite_right x (isFinite_mul32_of_not_finite_left P.delayFeedback hd)

/-- +0 times a word that is not finite is the NaN. -/
theorem mul32_posZero_of_not_finite {d : Word} (hd : isFinite d = false) : mul32 d posZero = qNaN := by
  obtain hnan | hinf := isNaN_or_isInf hd
  · exact mul32_of_nan (.inl hnan)
  · exact (mul32_inf_zero hinf rfl).1

/-- With delayMix = +0 a delayed word that is not finite makes the delay's output the NaN (R120). -/
theorem delayMixed_of_not_finite {P : Params} (x : Word) {d : Word} (hd : isFinite d = false)
    (hmix : P.delayMix = posZero) : delayMixed P x d = qNaN := by
  rw [delayMixed, hmix, mul32_posZero_of_not_finite hd, add32_of_nan (.inr isNaN_qNaN)]

/-- What one lane of the delay makes of a delayed word that is not finite (R120). -/
theorem delay_of_not_finite (P : Params) (x : Word) {d : Word} (hd : isFinite d = false) :
    isFinite (delayWrite P x d) = false ∧ (P.delayMix = posZero → delayMixed P x d = qNaN) :=
  ⟨isFinite_delayWrite_of_not_finite P x hd, delayMixed_of_not_finite x hd⟩

/-- Settles O42: the element written at the head (O35) and the mixed output, lane by lane. -/
theorem nonFiniteDelayRecurs : Obligations.NonFiniteDelayRecurs := by
  intro B wl wr s hok
  obtain ⟨t, hexec, ⟨hdl, -⟩, ⟨hdr, -⟩, -⟩ := delayLineWritesAtTheHead B wl wr s hok
  refine ⟨t, hexec, ?_⟩
  rw [hdl, hdr]
  exact ⟨delay_of_not_finite s.params (trace B wl wr s).sL, delay_of_not_finite s.params (trace B wl wr s).sR⟩

end Sys2Proof.Machine
end

section
/-! PROOFS. The reverb of 45_reverb.md (family 45_reverb.md: O36, O37, O44, O45). The comb bank and the allpass write at
their own heads, in the stage state `Trace.reverberated`; the comb coefficient follows the size because rounding keeps
order. -/

namespace Sys2Proof.Machine

/-! ### The comb bank's state after the step (R121 to R124, R126) -/

/-- The line of each comb in a stage in order. -/
theorem Stage.InRange.comb {c : Cfg} {g : Stage} (h : g.InRange c) :
    ∀ k : Fin 4, LineOk (c.combLen.get k) (g.cHead.get k) (g.comb.get k)
  | 0 => h.comb0
  | 1 => h.comb1
  | 2 => h.comb2
  | 3 => h.comb3

/-- Four things listed by a function of their number. -/
theorem Quad.get_mk {α : Type} (f : Fin 4 → α) (k : Fin 4) : (Quad.mk (f 0) (f 1) (f 2) (f 3)).get k = f k :=
  match k with
  | 0 | 1 | 2 | 3 => rfl

section
variable (T : Trace) (s : State)

@[simp] theorem Trace.reverberated_comb_get (k : Fin 4) : (T.reverberated s).comb.get k =
    combWrite T.m (combFeedback s.params.reverbSize) (s.stage.comb.get k) (s.stage.cHead.get k) :=
  Quad.get_mk (fun k => combWrite T.m (combFeedback s.params.reverbSize) (s.stage.comb.get k) (s.stage.cHead.get k)) k

@[simp] theorem Trace.reverberated_cHead_get (k : Fin 4) : (T.reverberated s).cHead.get k =
    combAdvance (s.cfg.combLen.get k) s.params.reverbSize (s.stage.cHead.get k) :=
  Quad.get_mk (fun k => combAdvance (s.cfg.combLen.get k) s.params.reverbSize (s.stage.cHead.get k)) k

@[simp] theorem Trace.reverberated_ap :
    (T.reverberated s).ap = memWrite s.stage.ap s.stage.apHead
      (allpassWrite s.cfg T.pre (memRead s.stage.ap s.stage.apHead)) := rfl

@[simp] theorem Trace.reverberated_apHead : (T.reverberated s).apHead = (s.stage.apHead + 1) % s.cfg.apLen := rfl

end

section
variable (B : Bool) (wl wr : Word) (s : State)

/-- The word each comb reads at its head (R124). -/
theorem trace_v_get (k : Fin 4) :
    (trace B wl wr s).v.get k = memRead (s.stage.comb.get k) (s.stage.cHead.get k) :=
  Quad.get_mk (fun k => memRead (s.stage.comb.get k) (s.stage.cHead.get k)) k

theorem trace_cf : (trace B wl wr s).cf = combFeedback s.params.reverbSize := rfl

/-- Each comb's memory after the step: input + read × combFeedback at its head (R124). -/
theorem reverberated_comb_writtenAt (hs : s.stage.InRange s.cfg) (k : Fin 4) :
    WrittenAt (s.stage.cHead.get k)
      (add32 (trace B wl wr s).m (mul32 ((trace B wl wr s).v.get k) (trace B wl wr s).cf))
      (s.stage.comb.get k) (((trace B wl wr s).reverberated s).comb.get k) := by
  rw [Trace.reverberated_comb_get, trace_v_get, trace_cf]
  exact (hs.comb k).writtenAt _

end

/-- Settles O36: each comb is a line of its own, and the allpass leaves the combs as they are. -/
theorem combBankWritesAtTheHeads : Obligations.CombBankWritesAtTheHeads := by
  intro B wl wr s hok
  have hs := (Stage.ok_iff s.cfg s.stage).1 hok
  have hcomb := reverberated_comb_writtenAt B wl wr s hs
  refine ⟨_, exec_sampleCommand_eq_trace B wl wr s hs.indicesInRange, ?_⟩
  rw [State.setPort_stage, State.setStage_stage]
  exact ⟨hcomb 0, hcomb 1, hcomb 2, hcomb 3, Trace.reverberated_cHead_get _ s⟩

/-! ### The allpass (R125, R127, R128) -/

/-- Settles O37: the allpass is the last writer of the stage state. -/
theorem allpassWritesAtTheHead : Obligations.AllpassWritesAtTheHead := by
  intro B wl wr s hok
  have hs := (Stage.ok_iff s.cfg s.stage).1 hok
  refine ⟨_, exec_sampleCommand_eq_trace B wl wr s hs.indicesInRange, ?_⟩
  rw [State.setPort_stage, State.setStage_stage, Trace.reverberated_ap, Trace.reverberated_apHead]
  exact ⟨hs.ap.writtenAt _, rfl⟩

/-! ### The comb lengths (R123) -/

/-- Settles O44: rounding the product keeps it between f32(0.1) and the base length. -/
theorem combLengthIsInRange : Obligations.CombLengthIsInRange :=
  fun _ _ hpos hle hsize => combLength_mem hpos hle hsize

/-! ### Rounding keeps order (R11) -/

theorem abs_sub_le_abs_sub_iff_mul (t u v : ℝ) : |t - u| ≤ |t - v| ↔ 0 ≤ (u - v) * (2 * t - u - v) := by
  rw [← sq_le_sq, ← sub_nonneg]
  ring_nf

/-- The lesser of two magnitudes is rounded to at most what the greater one is: were the roundings in the other order,
the lesser would lie at or above their midpoint and the greater at or below it. -/
theorem roundMag_mono {n n' d : ℕ} (hd : 0 < d) (h : n ≤ n') : roundMag n d ≤ roundMag n' d := by
  obtain rfl | hlt := h.eq_or_lt
  · exact le_rfl
  have ht : (n : ℝ) / d < n' / d := div_lt_div_of_pos_right (by exact_mod_cast hlt) (by exact_mod_cast hd)
  have hround := roundsToMag_roundMag n hd
  have hround' := roundsToMag_roundMag n' hd
  unfold RoundsToMag at hround hround'
  split_ifs at hround' with hfin
  · rw [if_pos (ht.trans hfin)] at hround
    obtain ⟨-, hnear, -⟩ := hround
    obtain ⟨-, hnear', -⟩ := hround'
    by_contra hgt
    have hu : (unitsOfMag (roundMag n' d) : ℝ) < unitsOfMag (roundMag n d) := by
      exact_mod_cast unitsOfMag_strictMono (not_le.1 hgt)
    have hmid := (abs_sub_le_abs_sub_iff_mul _ _ _).1 (hnear (roundMag n' d))
    have hmid' := (abs_sub_le_abs_sub_iff_mul _ _ _).1 (hnear' (roundMag n d))
    linarith [mul_pos (sub_pos.2 hu) (sub_pos.2 ht)]
  · exact (roundMag_le n d).trans_eq hround'.symm

/-- A product of finite words without a sign does not fall when a factor rises. -/
theorem units_mul32_mono {a x y : Word} (ha : isFinite a = true) (hx : isFinite x = true) (hy : isFinite y = true)
    (hsa : signBit a = false) (hsx : signBit x = false) (hsy : signBit y = false) (h : units x ≤ units y) :
    units (mul32 a x) ≤ units (mul32 a y) := by
  rw [units_of_nonneg hsx, units_of_nonneg hsy, Int.ofNat_le] at h
  rw [mul32_of_nonneg ha hx hsa hsx, mul32_of_nonneg ha hy hsa hsy, units_roundMag, units_roundMag, Int.ofNat_le]
  exact unitsOfMag_strictMono.monotone (roundMag_mono (by positivity) (Nat.mul_le_mul_left _ h))

/-! ### The comb feedback coefficient (R122) -/

theorem combFeedback_reverbSizeMin : combFeedback reverbSizeMin = 0x3DAC0831#32 := by decide +kernel

theorem combFeedback_one32 : combFeedback one32 = combFactor := by decide +kernel

/-- The coefficient of a size in its domain is between those of the domain's ends. -/
theorem units_combFeedback_mem {size : Word} (h : inBounds size reverbSizeMin one32 = true) :
    units 0x3DAC0831#32 ≤ units (combFeedback size) ∧ units (combFeedback size) ≤ units combFactor := by
  obtain ⟨-, -, hmin, hmax⟩ := (inBounds_iff size reverbSizeMin one32).1 h
  obtain ⟨hfin, hs, -, -⟩ := inBounds_nonneg (by decide) h
  rw [← combFeedback_reverbSizeMin, ← combFeedback_one32]
  exact ⟨units_mul32_mono (by decide) (by decide) hfin (by decide) (by decide) hs hmin,
    units_mul32_mono (by decide) hfin (by decide) (by decide) hs (by decide) hmax⟩

/-- Settles O45: the coefficient rises with the size, so its range is given by the two ends of the size's domain. -/
theorem combFeedbackIsInRange : Obligations.CombFeedbackIsInRange := by
  refine ⟨fun _ => rfl, fun size hsize => ?_, combFeedback_one32⟩
  obtain ⟨hmin, hmax⟩ := units_combFeedback_mem hsize
  exact ⟨isFinite_of_units_between (by decide) (by decide) hmin hmax, value_le_value.2 hmin, value_le_value.2 hmax⟩

end Sys2Proof.Machine
end

section
/-! PROOFS. The limiter of 46_limiter.md (family 46_limiter.md: O55, O56). Whatever the bound of the exponential, its
(E - 1)/(E + 1) is at most 1, and so is its rounding. -/

namespace Sys2Proof.Machine

/-! ### The bound and the saturation (R134) -/

/-- (E - 1)/(E + 1) is at most 1, which is a binary32 value. -/
theorem tanhMag_le_one (tail : ℕ) (x : Word) : tanhMag tail x ≤ 0x3F800000 := by
  obtain ⟨hpos, -⟩ := expBound_eq tail x
  have hunit : unitsOfMag 0x3F800000 = 2 ^ 149 := by decide
  unfold tanhMag
  generalize expBound tail x = E at *
  obtain ⟨n, d⟩ := E
  have hle : (n - d) * 2 ^ 149 ≤ 2 ^ 149 * (n + d) := by
    rw [mul_comm]; exact Nat.mul_le_mul_left _ (by omega)
  exact roundMag_le_of_le (Nat.add_pos_right n hpos) (by norm_num) (hunit ▸ hle)

/-- From the saturation word up the result is 1 with the operand's sign. -/
theorem tanhRN_of_saturated {x : Word} (hx : isNaN x = false) (hsat : tanhSaturation ≤ magBits x) :
    tanhRN x = packWord (signBit x) 0x3F800000 := by
  rw [tanhRN, hx, if_neg Bool.false_ne_true, if_pos hsat]

theorem tanhRN_of_unsaturated {x : Word} (hx : isNaN x = false) (hsat : magBits x < tanhSaturation) :
    tanhRN x = packWord (signBit x) (tanhMag 1 x) := by
  rw [tanhRN, hx, if_neg Bool.false_ne_true, if_neg hsat.not_ge]

/-- In either branch the result is a magnitude of at most 1 with the operand's sign. -/
theorem exists_tanhRN_eq_packWord {x : Word} (hx : isNaN x = false) :
    ∃ m ≤ 0x3F800000, tanhRN x = packWord (signBit x) m := by
  obtain hsat | hsat := le_or_gt tanhSaturation (magBits x)
  · exact ⟨_, le_rfl, tanhRN_of_saturated hx hsat⟩
  · exact ⟨_, tanhMag_le_one 1 x, tanhRN_of_unsaturated hx hsat⟩

/-- A magnitude of at most 1 is worth at most 1 with either sign. -/
theorem value_packWord_mem {neg : Bool} {m : ℕ} (hm : m ≤ 0x3F800000) :
    -1 ≤ value (packWord neg m) ∧ value (packWord neg m) ≤ 1 := by
  have hle : unitsOfMag m ≤ unitsOfMag 0x3F800000 := unitsOfMag_strictMono.monotone hm
  have hone : units one32 = unitsOfMag 0x3F800000 := by decide
  have hvalue : -1 = value (neg32 one32) := by rw [value_neg32, value_one32]
  rw [hvalue, ← value_one32, value_le_value, value_le_value, units_neg32, hone, units_packWord (by omega)]
  split_ifs <;> omega

/-- Settles O55: the result is a magnitude of at most 1 with a sign, and 1 itself from the saturation word up. -/
theorem limiterOutputIsBounded : Obligations.LimiterOutputIsBounded := by
  intro y hy
  obtain ⟨m, hm, heq⟩ := exists_tanhRN_eq_packWord hy
  obtain ⟨hlo, hhi⟩ := value_packWord_mem (neg := signBit y) hm
  refine ⟨?_, heq ▸ hlo, heq ▸ hhi, fun hsat => ?_⟩
  · rw [heq]
    exact isFinite_packWord (hm.trans_lt (by norm_num))
  · rw [tanhRN_of_saturated hy hsat]
    cases signBit y <;> rfl

/-! ### The values for reference (R136) -/

/-- Settles O56: the model is evaluated at the eleven words, as one Boolean test that the kernel can run. -/
theorem tanhReferenceValues : Obligations.TanhReferenceValues := by
  refine List.all_iff_forall_prop.1 ?_
  decide +kernel

end Sys2Proof.Machine
end

section
/-! PROOFS. Exceptions and the end of a run, of 60_exceptions.md, and reset, of 70_reset_and_hazards.md (families
60_exceptions.md and 70_reset_and_hazards.md: O8, O11, O15, O17, O22, O57, O58). An illegal header is one lemma,
`step_of_illegal`; a legal one names a command as soon as its operand words are there (`exists_commandOf`), so a port in a
parser state of R39 never faults. A step of a finished run is `step_of_runOver` or a reset. -/

namespace Sys2Proof.Machine

/-! ### Every step answers a next state (R45, R138, R140) -/

/-- A command stops only where a sample step's indices are out of range. -/
theorem exec_exists_next (i : Instr) {s : State} (hr : indicesInRange s.cfg s.stage = true) :
    ∃ t, exec i s = .next t := by
  cases i with
  | smp wl wr => exact ⟨_, sample_next false wl wr s hr⟩
  | smpB wl wr => exact ⟨_, sample_next true wl wr s hr⟩
  | _ => exact ⟨_, rfl⟩

theorem runOrWait_exists_next (p : Port) (i : Instr) {s : State} (hr : indicesInRange s.cfg s.stage = true) :
    ∃ t, runOrWait p i s = .next t := by
  obtain ⟨-, hrun⟩ | ⟨-, hrun⟩ := runOrWait_cases p i s <;> rw [hrun]
  · exact exec_exists_next i hr
  · exact ⟨_, rfl⟩

/-- A legal header is in one of the five rows of the opcode map, whatever its port is (R68). -/
theorem opcodeRow_of_legal {p : Port} {h : Word} (hl : legal p h = true) :
    opField h = 0 ∧ idxField h < 1 ∨ opField h = 1 ∧ idxField h < 7 ∨ opField h = 2 ∧ idxField h < 7 ∨
      opField h = 3 ∧ idxField h < 9 ∨ opField h = 16 ∧ idxField h < 2 := by
  cases p <;>
    simp only [legal_ctrl_iff, legal_smpl_iff, List.mem_append, mem_headersOf, Nat.reduceLT, Nat.reduceLeDiff] at hl <;>
    omega

theorem exists_pwrCommand {idx : ℕ} (h : idx < 7) (v : Word) : ∃ i, pwrCommand idx v = some i := by
  interval_cases idx <;> exact ⟨_, rfl⟩

theorem exists_prdCommand {idx : ℕ} (h : idx < 7) : ∃ i, prdCommand idx = some i := by
  interval_cases idx <;> exact ⟨_, rfl⟩

theorem exists_cfgrdCommand {idx : ℕ} (h : idx < 9) : ∃ i, cfgrdCommand idx = some i := by
  interval_cases idx <;> exact ⟨_, rfl⟩

theorem exists_smpCommand {idx : ℕ} (h : idx < 2) (wl wr : Word) : ∃ i, smpCommand idx wl wr = some i := by
  interval_cases idx <;> exact ⟨_, rfl⟩

/-- A legal header and all its operand words name a command (R68, R71). -/
theorem exists_commandOf {p : Port} {h : Word} {ops : List Word} (hl : legal p h = true)
    (hlen : ops.length = nOperands (opField h)) : ∃ i, commandOf h ops = some i := by
  obtain ⟨hop, hidx⟩ | ⟨hop, hidx⟩ | ⟨hop, hidx⟩ | ⟨hop, hidx⟩ | ⟨hop, hidx⟩ := opcodeRow_of_legal hl <;>
    rw [hop] at hlen
  · obtain rfl := List.length_eq_zero_iff.1 hlen
    rw [commandOf, hop]
    exact ⟨.nop, if_pos (Nat.lt_one_iff.1 hidx)⟩
  · obtain ⟨v, rfl⟩ := List.length_eq_one_iff.1 hlen
    rw [commandOf, hop]
    exact exists_pwrCommand hidx v
  · obtain rfl := List.length_eq_zero_iff.1 hlen
    rw [commandOf, hop]
    exact exists_prdCommand hidx
  · obtain rfl := List.length_eq_zero_iff.1 hlen
    rw [commandOf, hop]
    exact exists_cfgrdCommand hidx
  · obtain ⟨wl, wr, rfl⟩ := List.length_eq_two.1 hlen
    rw [commandOf, hop]
    exact exists_smpCommand hidx wl wr

/-- A legal header and all its operand words decode to a command, with nothing left over. -/
theorem exists_decode {p : Port} {h : Word} {ops : List Word} (hl : legal p h = true)
    (hlen : ops.length = nOperands (opField h)) : ∃ i, decode p (h :: ops) = .ok (i, []) := by
  obtain ⟨i, hi⟩ := exists_commandOf hl hlen
  exact ⟨i, by simp [decode, hl, ← hlen, hi]⟩

/-- A word after which the port holds a legal header and not too many operand words is kept, or completes a command. -/
theorem takeWord_exists_next_of_push {p : Port} {w h : Word} {ops : List Word} {s : State}
    (hr : indicesInRange s.cfg s.stage = true) (hpush : (s.port p).parse.push w = .collecting h ops)
    (hl : legal p h = true) (hle : ops.length ≤ nOperands (opField h)) : ∃ t, takeWord p w s = .next t := by
  obtain hlt | heq := hle.lt_or_eq
  · have hok : parseOk p ((s.port p).parse.push w) = true := by
      rw [hpush]
      exact (parseOk_collecting p h ops).2 ⟨hl, hlt⟩
    exact ⟨_, takeWord_of_parseOk hok⟩
  · obtain ⟨i, hi⟩ := exists_decode hl heq
    have hdec : decode p (wordsTaken (s.port p).parse ++ [w]) = .ok (i, []) := by
      rwa [← wordsTaken_push, hpush]
    rw [takeWord_of_decode hdec]
    exact runOrWait_exists_next p i (by simpa [setParse] using hr)

/-- An Idle port raises IllegalCommand for an illegal header, and nothing else (R140). -/
theorem takeWord_of_illegal {p : Port} {h : Word} {s : State} (hparse : (s.port p).parse = .idle)
    (hl : legal p h = false) : takeWord p h s = .next (raiseIllegal p s) := by
  rw [takeWord, hparse]
  simp [hl]

/-- A port in a parser state of R39 takes every word. -/
theorem takeWord_exists_next {p : Port} (w : Word) {s : State} (hr : indicesInRange s.cfg s.stage = true)
    (hok : parseOk p (s.port p).parse = true) : ∃ t, takeWord p w s = .next t := by
  cases hparse : (s.port p).parse with
  | idle =>
    cases hl : legal p w with
    | true => exact takeWord_exists_next_of_push hr (congrArg (Parse.push · w) hparse) hl (Nat.zero_le _)
    | false => exact ⟨_, takeWord_of_illegal hparse hl⟩
  | collecting h ops =>
    rw [hparse] at hok
    obtain ⟨hl, hlt⟩ := (parseOk_collecting p h ops).1 hok
    exact takeWord_exists_next_of_push hr (congrArg (Parse.push · w) hparse) hl
      (by rwa [List.length_append, List.length_singleton])

/-- A port in order can always be served. -/
theorem serve_exists_next (p : Port) {s : State} (h : InOrder s) : ∃ t, serve p s = .next t := by
  have hr := h.stage.indicesInRange
  obtain ⟨i, -, -, hs⟩ | ⟨i, -, -, hs⟩ | ⟨-, -, hs⟩ | ⟨w, rest, -, -, hs⟩ := serve_cases p s <;> rw [hs]
  · exact exec_exists_next i (by simpa [setWaiting] using hr)
  · exact ⟨_, rfl⟩
  · exact ⟨_, rfl⟩
  · exact takeWord_exists_next w (by simpa using hr) (by simpa using (h.port p).parse)

/-- Settles O11: only a sample step and a parser could stop, and the invariant keeps heads and parsers in range. -/
theorem noStepStops : Obligations.NoStepStops := by
  intro s hs
  rw [machineInv_iff] at hs
  obtain ⟨-, hstep⟩ | ⟨p, rest, -, hstep⟩ | ⟨p, rest, -, hstep⟩ | ⟨n, m, rest, -, hstep⟩ := step_cases s <;>
    rw [hstep]
  · exact ⟨_, rfl⟩
  · exact serve_exists_next p (hs.setSched rest)
  · exact ⟨_, rfl⟩
  · exact ⟨_, rfl⟩

/-! ### IllegalCommand (R140, R141) -/

/-- A turn of an Idle port that takes an illegal header raises IllegalCommand, with the word dropped. -/
theorem step_of_illegal {s : State} {p : Port} {rest : List Act} {h : Word} {ws : List Word}
    (hsched : s.sched = .serve p :: rest) (hwait : (s.port p).waiting = none) (hparse : (s.port p).parse = .idle)
    (hsend : (s.host p).toSend = h :: ws) (hl : legal p h = false) :
    step s = .next (raiseIllegal p ((s.setSched rest).setHost p { s.host p with toSend := ws })) := by
  rw [step_takeWord hsched hwait hsend, takeWord_of_illegal (by simpa using hparse) hl]

/-- Settles O15: `raiseIllegal` sets the port's bit and counts the event. -/
theorem illegalHeaderEffect : Obligations.IllegalHeaderEffect := by
  intro s p rest h ws hsched hwait hparse hsend hl
  refine ⟨s.faults p + 1, ?_⟩
  rw [step_of_illegal hsched hwait hparse hsend hl, raiseIllegal_eq]
  cases p <;> rfl

theorem exec_faults {i : Instr} {s t : State} (h : exec i s = .next t) (q : Port) : t.faults q = s.faults q := by
  obtain ⟨p, hp⟩ := exists_wellFormed i
  obtain ⟨P, g, o, rfl, -, -, -⟩ := exec_effect hp h
  simp

theorem runOrWait_faults {p : Port} {i : Instr} {s t : State} (h : runOrWait p i s = .next t) (q : Port) :
    t.faults q = s.faults q := by
  obtain ⟨-, hrun⟩ | ⟨-, hrun⟩ := runOrWait_cases p i s <;> rw [hrun] at h
  · exact exec_faults h q
  · cases h
    simp [setWaiting]

theorem raiseIllegal_faults_same (p : Port) (s : State) : (raiseIllegal p s).faults p = s.faults p + 1 := by
  simp [raiseIllegal_eq]

theorem faults_le_raiseIllegal (p q : Port) (s : State) : s.faults q ≤ (raiseIllegal p s).faults q := by
  obtain rfl | hq := eq_or_ne q p
  · exact (Nat.le_succ _).trans_eq (raiseIllegal_faults_same q s).symm
  · rw [raiseIllegal_eq, State.setFaults_faults_other _ _ _ _ hq, State.setStatus_faults]

theorem takeWord_faults_le {p : Port} {w : Word} {s t : State} (h : takeWord p w s = .next t) (q : Port) :
    s.faults q ≤ t.faults q := by
  obtain rfl | ⟨x, -, rfl⟩ | ⟨i, -, hrun⟩ := takeWord_next h
  · exact faults_le_raiseIllegal p q s
  · simp [setParse]
  · simp [runOrWait_faults hrun, setParse]

theorem serve_faults_le {p : Port} {s t : State} (h : serve p s = .next t) (q : Port) : s.faults q ≤ t.faults q := by
  obtain ⟨i, -, -, hs⟩ | ⟨i, -, -, hs⟩ | ⟨-, -, hs⟩ | ⟨w, rest, -, -, hs⟩ := serve_cases p s <;> rw [hs] at h
  · simp [exec_faults h, setWaiting]
  · cases h
    exact le_rfl
  · cases h
    exact le_rfl
  · simpa using takeWord_faults_le h q

theorem remove_faults (p q : Port) (s : State) : (remove p s).faults q = s.faults q := by
  obtain ⟨-, hr⟩ | ⟨w, rest, -, hr⟩ := remove_cases p s <;> simp [hr]

@[simp] theorem applyReset_faults (n m : ℕ) (s : State) (q : Port) : (applyReset n m s).faults q = s.faults q := by
  cases q <;> rfl

/-- Settles O22: of all acts only an illegal header changes a count, by one more on its port. -/
theorem recordedFaultsAreNeverCleared : Obligations.RecordedFaultsAreNeverCleared := by
  refine ⟨fun s t q h => ?_, fun s t p rest hd ws hsched hwait hparse hsend hl h => ?_⟩
  · obtain ⟨-, hs⟩ | ⟨p, rest, -, hs⟩ | ⟨p, rest, -, hs⟩ | ⟨n, m, rest, -, hs⟩ := step_cases s <;> rw [hs] at h
    · cases h
      exact le_rfl
    · simpa using serve_faults_le h q
    · cases h
      simp [remove_faults]
    · cases h
      simp
  · rw [step_of_illegal hsched hwait hparse hsend hl] at h
    cases h
    simp [raiseIllegal_faults_same]

/-! ### Steps with nothing to do (R150) -/

theorem step_of_sched_nil {s : State} (h : s.sched = []) : step s = .next s := by
  rw [step, h]

theorem serve_of_toSend_nil {p : Port} {s : State} (hwait : (s.port p).waiting = none)
    (hsend : (s.host p).toSend = []) : serve p s = .next s := by
  rw [serve, hwait, hsend]

/-- A turn of a port with nothing to take and nothing waiting only moves the schedule on. -/
theorem step_serve_of_toSend_nil {s : State} {p : Port} {rest : List Act} (hsched : s.sched = .serve p :: rest)
    (hwait : (s.port p).waiting = none) (hsend : (s.host p).toSend = []) : step s = .next (s.setSched rest) := by
  rw [step_serve hsched, serve_of_toSend_nil (by simpa using hwait) (by simpa using hsend)]

/-- Settles O17: no act, and a turn that takes no word. -/
theorem idleBlockKeepsItsState : Obligations.IdleBlockKeepsItsState :=
  ⟨fun _ => step_of_sched_nil, fun _ _ _ => step_serve_of_toSend_nil⟩

/-! ### Reset (R143, R155) -/

theorem step_reset {s : State} {n m : ℕ} {rest : List Act} (h : s.sched = .reset n m :: rest) :
    step s = .next (applyReset n m (s.setSched rest)) := by
  rw [step, h]
  rfl

@[simp] theorem applyReset_port (n m : ℕ) (s : State) (p : Port) : (applyReset n m s).port p = PortState.reset := by
  cases p <;> rfl

@[simp] theorem applyReset_received (n m : ℕ) (s : State) (p : Port) :
    ((applyReset n m s).host p).received = (s.host p).received := by
  cases p <;> rfl

/-- Reset only loses words: what a host still has to send is the end of what it had (S11). -/
theorem applyReset_toSend_suffix (n m : ℕ) (s : State) (p : Port) :
    ((applyReset n m s).host p).toSend <:+ (s.host p).toSend := by
  cases p <;> exact List.drop_suffix _ _

/-- Settles O8: `applyReset` is the reset state of the same configuration, with the hosts' sides kept. -/
theorem resetActPutsEverythingBack : Obligations.ResetActPutsEverythingBack := by
  intro s n m rest hsched
  refine ⟨_, step_reset hsched, rfl, rfl, rfl, rfl, fun p => ⟨applyReset_port n m _ p, ?_⟩⟩
  rw [applyReset_received, State.setSched_host]

/-! ### The end of a run (R152) -/

theorem runOver_iff (s : State) : runOver s = true ↔
    ∀ p, (s.port p).parse = .idle ∧ (s.port p).resp = [] ∧ (s.port p).waiting = none := by
  rw [runOver, Bool.and_eq_true, portOver_iff, portOver_iff]
  exact ⟨fun ⟨hctrl, hsmpl⟩ => fun | .ctrl => hctrl | .smpl => hsmpl, fun h => ⟨h .ctrl, h .smpl⟩⟩

/-- Settles O57: both ports are over, and a port at reset is. -/
theorem runIsOverWhenPortsAreDone : Obligations.RunIsOverWhenPortsAreDone :=
  ⟨runOver_iff, fun _ => rfl⟩

@[simp] theorem State.setSched_self (s : State) : s.setSched s.sched = s := rfl

@[simp] theorem runOver_setSched (s : State) (l : List Act) : runOver (s.setSched l) = runOver s := rfl

@[simp] theorem runOver_applyReset (n m : ℕ) (s : State) : runOver (applyReset n m s) = true := rfl

/-- In a finished run with no words left to send, an act that is not reset finds nothing to do. -/
theorem step_of_runOver {s : State} (hover : runOver s = true) (hsend : ∀ p, (s.host p).toSend = [])
    (hreset : ∀ n m rest, s.sched ≠ .reset n m :: rest) : step s = .next (s.setSched s.sched.tail) := by
  have hdone := (runOver_iff s).1 hover
  obtain ⟨hsched, hs⟩ | ⟨p, rest, hsched, -⟩ | ⟨p, rest, hsched, hs⟩ | ⟨n, m, rest, hsched, -⟩ := step_cases s
  · rwa [hsched, List.tail_nil, ← hsched, State.setSched_self]
  · obtain ⟨-, -, hwait⟩ := hdone p
    rw [step_serve_of_toSend_nil hsched hwait (hsend p), hsched, List.tail_cons]
  · obtain ⟨-, hresp, -⟩ := hdone p
    rw [hs, remove_of_resp_nil (by simpa using hresp), hsched, List.tail_cons]
  · exact absurd hsched (hreset n m rest)

/-- Settles O58: reset makes every run over, and no other act finds anything to do. -/
theorem finishedRunStaysOver : Obligations.FinishedRunStaysOver := by
  intro s t hover hsend h
  by_cases hreset : ∀ n m rest, s.sched ≠ .reset n m :: rest
  · cases (step_of_runOver hover hsend hreset).symm.trans h
    exact ⟨by simpa using hover, by simpa using hsend, fun _ => rfl⟩
  · push Not at hreset
    obtain ⟨n, m, rest, hsched⟩ := hreset
    cases (step_reset hsched).symm.trans h
    refine ⟨runOver_applyReset n m _, fun p => ?_, fun hno => absurd hsched (hno n m rest)⟩
    have hsuffix := applyReset_toSend_suffix n m (s.setSched rest) p
    rwa [State.setSched_host, hsend p, List.suffix_nil] at hsuffix

end Sys2Proof.Machine
end
